-- ==== Sys2Proof/Word.lean ====
section
/-! DEFINITION. The two word types of the hardware (spec/00_scope.md R5): an 8-bit byte (register, memory cell,
opcode, operand byte) and a 16-bit word (PC, address). Their arithmetic is BitVec's own, which wraps at the width
as R10 says. Byte-order and sign-extension helpers stand in Machine/Bits.lean. -/

namespace Sys2Proof

/-- An 8-bit value (R5). -/
abbrev Byte := BitVec 8

/-- A 16-bit value: the program counter or an address (R5). -/
abbrev Word := BitVec 16

end Sys2Proof
end

