-- ==== Sys2Proof/Config.lean ====
section
/-! DEFINITION. What an implementation fixes (spec/00_scope.md R6): the parameters SP_RESET and ILLEGAL_POLICY, and
the MemoryInterface instance `Mem` (spec/20_memory.md R60, R61), given here as a map of address windows over plain
RAM and the number of the collaborator that answers where the map leaves the answer open. A `Config` is plain data and
stands in State, so a statement about every state is a statement about every choice of the parameters. The free values
are opaque constants: what a collaborator answers, and which of its calls fail. -/

namespace Sys2Proof

/-- ILLEGAL_POLICY (R6): what an undefined opcode does (spec/48_illegal.md R401). -/
inductive IllegalPolicy where
  | halt
  | nop
  deriving DecidableEq, Repr

/-- How the MemoryInterface answers a read of an address (R60, R61). -/
inductive ReadAnswer where
  /-- The byte last written to the address (the reference RAM, R83). -/
  | cell
  /-- An unmapped region "modelled as returning a fixed value" (R61). -/
  | fixed (v : Byte)
  /-- A device register (R73) that always answers: the byte is a free value (log entry 6). -/
  | device
  /-- Whatever the contract of R61 and R62 allows: a byte or a failure, both free values (log entries 5 and 6). -/
  | external
  /-- The MemoryInterface signals a failure (R62). -/
  | fails
  deriving DecidableEq, Repr

/-- How the MemoryInterface answers a write to an address (R60, R61). -/
inductive WriteAnswer where
  /-- The byte is stored (the reference RAM, R83). -/
  | cell
  /-- A read-only region: "a no-op from the engine's perspective" (R61). -/
  | ignored
  /-- A device register (R73) that always accepts the write: its later answers may depend on it (log entry 6). -/
  | device
  /-- Whatever the contract of R61 and R62 allows: the write is accepted or fails, a free value, and either way later
  answers may depend on it (log entries 5 and 6). -/
  | external
  /-- The MemoryInterface signals a violation (R61, R62) on every write. What a failing write did to memory "is the
  collaborator's" (spec/44_incdec.md R281): here, nothing (DESIGN CHOICE, log entry 22). -/
  | fails
  deriving DecidableEq, Repr

/-- One call made to a collaborator that answers for itself (R60). -/
inductive BusCall where
  | read (a : Word)
  | write (a : Word) (v : Byte)
  deriving DecidableEq, Repr

/-- A range of addresses, `first` to `last` both included, and how it answers. -/
structure Window where
  first : Nat
  last : Nat
  onRead : ReadAnswer
  onWrite : WriteAnswer
  deriving DecidableEq, Repr

/-- The configuration record of R6. POWER_ON, the values of every register before the first reset, is the state
itself: any State is one draw of it (log entry 1). -/
structure Config where
  /-- SP_RESET, the value `reset()` writes to SP: OPEN in the spec (R6, D5). -/
  spReset : Byte
  /-- ILLEGAL_POLICY (R6, D10). -/
  illegalPolicy : IllegalPolicy
  /-- The MemoryInterface instance: the first window that holds an address answers for it, and an address in no
  window is plain RAM. The reference instance of R83 has no window. -/
  windows : List Window
  /-- Which collaborator answers for the windows that leave the answer to it: any number, one for each behaviour. -/
  collaborator : Nat
  deriving DecidableEq, Repr

/-- The configuration of the spec's test vectors (spec/95_test_vectors.md, Conventions): SP_RESET = 0xFD (DESIGN
CHOICE, log entry 2), the default policy Halt (R6) and the reference RAM (R83). -/
def Config.reference : Config :=
  { spReset := 0xFD, illegalPolicy := .halt, windows := [], collaborator := 0 }

/-- FREE VALUE: the byte collaborator `n` answers to a read of `a` after the calls made to it so far, the latest first
(R61: "The engine never assumes anything about memory beyond this contract"). It has no body, so nothing can be proved
of it (log entry 6). -/
opaque Config.deviceByte (n : Nat) (calls : List BusCall) (a : Word) : Byte

/-- FREE VALUE: whether collaborator `n` signals a failure of a call made after the calls so far, the latest first (R62,
log entry 6). -/
opaque Config.callFails (n : Nat) (calls : List BusCall) (call : BusCall) : Bool

end Sys2Proof
end

