-- ==== Sys2Proof/Syntax.lean ====
section
/-! DEFINITION. The instruction set as syntax (spec/30_encoding.md R90 to R101): the 13 addressing modes, the 56
mnemonics and the undefined entry, the InstructionTable's entry, the operand forms, and `Instr`, one constructor
per row of spec/opcode_table.json. The 105 undefined rows are the ONE table entry of R97 and R100 ("a documented
instruction or the undefined entry"), so they are one constructor that carries its opcode byte (log entry 14). -/

namespace Sys2Proof

/-- The 13 addressing modes, "a fixed closed set" (R93). -/
inductive Mode where
  | imp | acc | imm | zp | zpx | zpy | abs | abx | aby | ind | izx | izy | rel
  deriving DecidableEq, Repr

/-- The 56 documented mnemonics (R96) and the undefined entry's `???` (R97). -/
inductive Mnemonic where
  | lda | ldx | ldy | sta | stx | sty | tax | tay | txa | tya | tsx | txs | pha | php
  | pla | plp | adc | sbc | cmp | cpx | cpy | inc | dec | inx | iny | dex | dey | and
  | ora | eor | bit | asl | lsr | rol | ror | bcc | bcs | beq | bne | bmi | bpl | bvc
  | bvs | jmp | jsr | rts | brk | rti | clc | sec | cld | sed | cli | sei | clv | nop
  | undefined
  deriving DecidableEq, Repr

/-- The extra-cycle kind of a table entry (spec/40_engine.md R160). -/
inductive Penalty where
  | none | page | branch
  deriving DecidableEq, Repr

/-- One entry of the InstructionTable (R97), less its key, the opcode byte. -/
structure Entry where
  mnemonic : Mnemonic
  mode : Mode
  length : Nat
  baseCycles : Nat
  penalty : Penalty
  isDefined : Bool
  deriving DecidableEq, Repr

/-- The addressing modes that resolve to an effective address, each with its operand bytes (R92, R93). -/
inductive EaForm where
  | zp (b1 : Byte)
  | zpx (b1 : Byte)
  | zpy (b1 : Byte)
  | abs (b1 b2 : Byte)
  | abx (b1 b2 : Byte)
  | aby (b1 b2 : Byte)
  | ind (b1 b2 : Byte)
  | izx (b1 : Byte)
  | izy (b1 : Byte)
  deriving DecidableEq, Repr

/-- The operand forms of a read-class instruction (spec/40_engine.md R153): the byte `b1` itself, or the byte at an
effective address. -/
inductive ReadForm where
  | imm (b1 : Byte)
  | ea (f : EaForm)
  deriving DecidableEq, Repr

/-- The instructions. `b1` and `b2` are the operand bytes in the order they are fetched (R91): `b2` is the high byte
of a 16-bit operand. -/
inductive Instr where
  /-- 0xA1 `LDA (b1,X)` (R202). -/
  | ldaIzx (b1 : Byte)
  /-- 0xA5 `LDA b1` (R202). -/
  | ldaZp (b1 : Byte)
  /-- 0xA9 `LDA #b1` (R202). -/
  | ldaImm (b1 : Byte)
  /-- 0xAD `LDA b2b1` (R202). -/
  | ldaAbs (b1 b2 : Byte)
  /-- 0xB1 `LDA (b1),Y` (R202). -/
  | ldaIzy (b1 : Byte)
  /-- 0xB5 `LDA b1,X` (R202). -/
  | ldaZpx (b1 : Byte)
  /-- 0xB9 `LDA b2b1,Y` (R202). -/
  | ldaAby (b1 b2 : Byte)
  /-- 0xBD `LDA b2b1,X` (R202). -/
  | ldaAbx (b1 b2 : Byte)
  /-- 0xA2 `LDX #b1` (R203). -/
  | ldxImm (b1 : Byte)
  /-- 0xA6 `LDX b1` (R203). -/
  | ldxZp (b1 : Byte)
  /-- 0xAE `LDX b2b1` (R203). -/
  | ldxAbs (b1 b2 : Byte)
  /-- 0xB6 `LDX b1,Y` (R203). -/
  | ldxZpy (b1 : Byte)
  /-- 0xBE `LDX b2b1,Y` (R203). -/
  | ldxAby (b1 b2 : Byte)
  /-- 0xA0 `LDY #b1` (R204). -/
  | ldyImm (b1 : Byte)
  /-- 0xA4 `LDY b1` (R204). -/
  | ldyZp (b1 : Byte)
  /-- 0xAC `LDY b2b1` (R204). -/
  | ldyAbs (b1 b2 : Byte)
  /-- 0xB4 `LDY b1,X` (R204). -/
  | ldyZpx (b1 : Byte)
  /-- 0xBC `LDY b2b1,X` (R204). -/
  | ldyAbx (b1 b2 : Byte)
  /-- 0x81 `STA (b1,X)` (R205). -/
  | staIzx (b1 : Byte)
  /-- 0x85 `STA b1` (R205). -/
  | staZp (b1 : Byte)
  /-- 0x8D `STA b2b1` (R205). -/
  | staAbs (b1 b2 : Byte)
  /-- 0x91 `STA (b1),Y` (R205). -/
  | staIzy (b1 : Byte)
  /-- 0x95 `STA b1,X` (R205). -/
  | staZpx (b1 : Byte)
  /-- 0x99 `STA b2b1,Y` (R205). -/
  | staAby (b1 b2 : Byte)
  /-- 0x9D `STA b2b1,X` (R205). -/
  | staAbx (b1 b2 : Byte)
  /-- 0x86 `STX b1` (R206). -/
  | stxZp (b1 : Byte)
  /-- 0x8E `STX b2b1` (R206). -/
  | stxAbs (b1 b2 : Byte)
  /-- 0x96 `STX b1,Y` (R206). -/
  | stxZpy (b1 : Byte)
  /-- 0x84 `STY b1` (R207). -/
  | styZp (b1 : Byte)
  /-- 0x8C `STY b2b1` (R207). -/
  | styAbs (b1 b2 : Byte)
  /-- 0x94 `STY b1,X` (R207). -/
  | styZpx (b1 : Byte)
  /-- 0xAA `TAX` (R208). -/
  | tax
  /-- 0xA8 `TAY` (R209). -/
  | tay
  /-- 0x8A `TXA` (R210). -/
  | txa
  /-- 0x98 `TYA` (R211). -/
  | tya
  /-- 0xBA `TSX` (R212). -/
  | tsx
  /-- 0x9A `TXS` (R213). -/
  | txs
  /-- 0x48 `PHA` (R231). -/
  | pha
  /-- 0x08 `PHP` (R232). -/
  | php
  /-- 0x68 `PLA` (R233). -/
  | pla
  /-- 0x28 `PLP` (R234). -/
  | plp
  /-- 0x61 `ADC (b1,X)` (R252). -/
  | adcIzx (b1 : Byte)
  /-- 0x65 `ADC b1` (R252). -/
  | adcZp (b1 : Byte)
  /-- 0x69 `ADC #b1` (R252). -/
  | adcImm (b1 : Byte)
  /-- 0x6D `ADC b2b1` (R252). -/
  | adcAbs (b1 b2 : Byte)
  /-- 0x71 `ADC (b1),Y` (R252). -/
  | adcIzy (b1 : Byte)
  /-- 0x75 `ADC b1,X` (R252). -/
  | adcZpx (b1 : Byte)
  /-- 0x79 `ADC b2b1,Y` (R252). -/
  | adcAby (b1 b2 : Byte)
  /-- 0x7D `ADC b2b1,X` (R252). -/
  | adcAbx (b1 b2 : Byte)
  /-- 0xE1 `SBC (b1,X)` (R255). -/
  | sbcIzx (b1 : Byte)
  /-- 0xE5 `SBC b1` (R255). -/
  | sbcZp (b1 : Byte)
  /-- 0xE9 `SBC #b1` (R255). -/
  | sbcImm (b1 : Byte)
  /-- 0xED `SBC b2b1` (R255). -/
  | sbcAbs (b1 b2 : Byte)
  /-- 0xF1 `SBC (b1),Y` (R255). -/
  | sbcIzy (b1 : Byte)
  /-- 0xF5 `SBC b1,X` (R255). -/
  | sbcZpx (b1 : Byte)
  /-- 0xF9 `SBC b2b1,Y` (R255). -/
  | sbcAby (b1 b2 : Byte)
  /-- 0xFD `SBC b2b1,X` (R255). -/
  | sbcAbx (b1 b2 : Byte)
  /-- 0xC1 `CMP (b1,X)` (R259). -/
  | cmpIzx (b1 : Byte)
  /-- 0xC5 `CMP b1` (R259). -/
  | cmpZp (b1 : Byte)
  /-- 0xC9 `CMP #b1` (R259). -/
  | cmpImm (b1 : Byte)
  /-- 0xCD `CMP b2b1` (R259). -/
  | cmpAbs (b1 b2 : Byte)
  /-- 0xD1 `CMP (b1),Y` (R259). -/
  | cmpIzy (b1 : Byte)
  /-- 0xD5 `CMP b1,X` (R259). -/
  | cmpZpx (b1 : Byte)
  /-- 0xD9 `CMP b2b1,Y` (R259). -/
  | cmpAby (b1 b2 : Byte)
  /-- 0xDD `CMP b2b1,X` (R259). -/
  | cmpAbx (b1 b2 : Byte)
  /-- 0xE0 `CPX #b1` (R260). -/
  | cpxImm (b1 : Byte)
  /-- 0xE4 `CPX b1` (R260). -/
  | cpxZp (b1 : Byte)
  /-- 0xEC `CPX b2b1` (R260). -/
  | cpxAbs (b1 b2 : Byte)
  /-- 0xC0 `CPY #b1` (R261). -/
  | cpyImm (b1 : Byte)
  /-- 0xC4 `CPY b1` (R261). -/
  | cpyZp (b1 : Byte)
  /-- 0xCC `CPY b2b1` (R261). -/
  | cpyAbs (b1 b2 : Byte)
  /-- 0xE6 `INC b1` (R281). -/
  | incZp (b1 : Byte)
  /-- 0xEE `INC b2b1` (R281). -/
  | incAbs (b1 b2 : Byte)
  /-- 0xF6 `INC b1,X` (R281). -/
  | incZpx (b1 : Byte)
  /-- 0xFE `INC b2b1,X` (R281). -/
  | incAbx (b1 b2 : Byte)
  /-- 0xC6 `DEC b1` (R282). -/
  | decZp (b1 : Byte)
  /-- 0xCE `DEC b2b1` (R282). -/
  | decAbs (b1 b2 : Byte)
  /-- 0xD6 `DEC b1,X` (R282). -/
  | decZpx (b1 : Byte)
  /-- 0xDE `DEC b2b1,X` (R282). -/
  | decAbx (b1 b2 : Byte)
  /-- 0xE8 `INX` (R283). -/
  | inx
  /-- 0xC8 `INY` (R284). -/
  | iny
  /-- 0xCA `DEX` (R285). -/
  | dex
  /-- 0x88 `DEY` (R286). -/
  | dey
  /-- 0x21 `AND (b1,X)` (R301). -/
  | andIzx (b1 : Byte)
  /-- 0x25 `AND b1` (R301). -/
  | andZp (b1 : Byte)
  /-- 0x29 `AND #b1` (R301). -/
  | andImm (b1 : Byte)
  /-- 0x2D `AND b2b1` (R301). -/
  | andAbs (b1 b2 : Byte)
  /-- 0x31 `AND (b1),Y` (R301). -/
  | andIzy (b1 : Byte)
  /-- 0x35 `AND b1,X` (R301). -/
  | andZpx (b1 : Byte)
  /-- 0x39 `AND b2b1,Y` (R301). -/
  | andAby (b1 b2 : Byte)
  /-- 0x3D `AND b2b1,X` (R301). -/
  | andAbx (b1 b2 : Byte)
  /-- 0x01 `ORA (b1,X)` (R302). -/
  | oraIzx (b1 : Byte)
  /-- 0x05 `ORA b1` (R302). -/
  | oraZp (b1 : Byte)
  /-- 0x09 `ORA #b1` (R302). -/
  | oraImm (b1 : Byte)
  /-- 0x0D `ORA b2b1` (R302). -/
  | oraAbs (b1 b2 : Byte)
  /-- 0x11 `ORA (b1),Y` (R302). -/
  | oraIzy (b1 : Byte)
  /-- 0x15 `ORA b1,X` (R302). -/
  | oraZpx (b1 : Byte)
  /-- 0x19 `ORA b2b1,Y` (R302). -/
  | oraAby (b1 b2 : Byte)
  /-- 0x1D `ORA b2b1,X` (R302). -/
  | oraAbx (b1 b2 : Byte)
  /-- 0x41 `EOR (b1,X)` (R303). -/
  | eorIzx (b1 : Byte)
  /-- 0x45 `EOR b1` (R303). -/
  | eorZp (b1 : Byte)
  /-- 0x49 `EOR #b1` (R303). -/
  | eorImm (b1 : Byte)
  /-- 0x4D `EOR b2b1` (R303). -/
  | eorAbs (b1 b2 : Byte)
  /-- 0x51 `EOR (b1),Y` (R303). -/
  | eorIzy (b1 : Byte)
  /-- 0x55 `EOR b1,X` (R303). -/
  | eorZpx (b1 : Byte)
  /-- 0x59 `EOR b2b1,Y` (R303). -/
  | eorAby (b1 b2 : Byte)
  /-- 0x5D `EOR b2b1,X` (R303). -/
  | eorAbx (b1 b2 : Byte)
  /-- 0x24 `BIT b1` (R304). -/
  | bitZp (b1 : Byte)
  /-- 0x2C `BIT b2b1` (R304). -/
  | bitAbs (b1 b2 : Byte)
  /-- 0x06 `ASL b1` (R306). -/
  | aslZp (b1 : Byte)
  /-- 0x0A `ASL A` (R306). -/
  | aslAcc
  /-- 0x0E `ASL b2b1` (R306). -/
  | aslAbs (b1 b2 : Byte)
  /-- 0x16 `ASL b1,X` (R306). -/
  | aslZpx (b1 : Byte)
  /-- 0x1E `ASL b2b1,X` (R306). -/
  | aslAbx (b1 b2 : Byte)
  /-- 0x46 `LSR b1` (R307). -/
  | lsrZp (b1 : Byte)
  /-- 0x4A `LSR A` (R307). -/
  | lsrAcc
  /-- 0x4E `LSR b2b1` (R307). -/
  | lsrAbs (b1 b2 : Byte)
  /-- 0x56 `LSR b1,X` (R307). -/
  | lsrZpx (b1 : Byte)
  /-- 0x5E `LSR b2b1,X` (R307). -/
  | lsrAbx (b1 b2 : Byte)
  /-- 0x26 `ROL b1` (R308). -/
  | rolZp (b1 : Byte)
  /-- 0x2A `ROL A` (R308). -/
  | rolAcc
  /-- 0x2E `ROL b2b1` (R308). -/
  | rolAbs (b1 b2 : Byte)
  /-- 0x36 `ROL b1,X` (R308). -/
  | rolZpx (b1 : Byte)
  /-- 0x3E `ROL b2b1,X` (R308). -/
  | rolAbx (b1 b2 : Byte)
  /-- 0x66 `ROR b1` (R309). -/
  | rorZp (b1 : Byte)
  /-- 0x6A `ROR A` (R309). -/
  | rorAcc
  /-- 0x6E `ROR b2b1` (R309). -/
  | rorAbs (b1 b2 : Byte)
  /-- 0x76 `ROR b1,X` (R309). -/
  | rorZpx (b1 : Byte)
  /-- 0x7E `ROR b2b1,X` (R309). -/
  | rorAbx (b1 b2 : Byte)
  /-- 0x90 `BCC b1` (R342). -/
  | bcc (b1 : Byte)
  /-- 0xB0 `BCS b1` (R343). -/
  | bcs (b1 : Byte)
  /-- 0xF0 `BEQ b1` (R344). -/
  | beq (b1 : Byte)
  /-- 0xD0 `BNE b1` (R345). -/
  | bne (b1 : Byte)
  /-- 0x30 `BMI b1` (R346). -/
  | bmi (b1 : Byte)
  /-- 0x10 `BPL b1` (R347). -/
  | bpl (b1 : Byte)
  /-- 0x50 `BVC b1` (R348). -/
  | bvc (b1 : Byte)
  /-- 0x70 `BVS b1` (R349). -/
  | bvs (b1 : Byte)
  /-- 0x4C `JMP b2b1` (R350). -/
  | jmpAbs (b1 b2 : Byte)
  /-- 0x6C `JMP (b2b1)` (R350). -/
  | jmpInd (b1 b2 : Byte)
  /-- 0x20 `JSR b2b1` (R351). -/
  | jsr (b1 b2 : Byte)
  /-- 0x60 `RTS` (R352). -/
  | rts
  /-- 0x00 `BRK` (R353). -/
  | brk (signature : Byte)
  /-- 0x40 `RTI` (R354). -/
  | rti
  /-- 0x18 `CLC` (R381). -/
  | clc
  /-- 0x38 `SEC` (R382). -/
  | sec
  /-- 0xD8 `CLD` (R383). -/
  | cld
  /-- 0xF8 `SED` (R384). -/
  | sed
  /-- 0x58 `CLI` (R385). -/
  | cli
  /-- 0x78 `SEI` (R386). -/
  | sei
  /-- 0xB8 `CLV` (R387). -/
  | clv
  /-- 0xEA `NOP` (R388). -/
  | nop
  /-- A byte of R99's list, `???` (R400, R401). -/
  | undefined (opcode : Byte)
  deriving DecidableEq, Repr

end Sys2Proof
end

