-- ==== Sys2Proof/Decode.lean ====
section
/-! DEFINITION. The InstructionTable (spec/30_encoding.md R95 to R97, opcode_table.json), the decoder, which is
total on bytes (R100) and refuses only a sequence that ends too early, and the encoder, written from the same table.
Operand bytes follow the opcode at increasing addresses, the low byte of a 16-bit operand first (R91,
spec/20_memory.md R63). -/

namespace Sys2Proof

/-- The name of a table entry as the spec spells it (R96, R97). -/
def Mnemonic.text : Mnemonic → String
  | .lda => "LDA"
  | .ldx => "LDX"
  | .ldy => "LDY"
  | .sta => "STA"
  | .stx => "STX"
  | .sty => "STY"
  | .tax => "TAX"
  | .tay => "TAY"
  | .txa => "TXA"
  | .tya => "TYA"
  | .tsx => "TSX"
  | .txs => "TXS"
  | .pha => "PHA"
  | .php => "PHP"
  | .pla => "PLA"
  | .plp => "PLP"
  | .adc => "ADC"
  | .sbc => "SBC"
  | .cmp => "CMP"
  | .cpx => "CPX"
  | .cpy => "CPY"
  | .inc => "INC"
  | .dec => "DEC"
  | .inx => "INX"
  | .iny => "INY"
  | .dex => "DEX"
  | .dey => "DEY"
  | .and => "AND"
  | .ora => "ORA"
  | .eor => "EOR"
  | .bit => "BIT"
  | .asl => "ASL"
  | .lsr => "LSR"
  | .rol => "ROL"
  | .ror => "ROR"
  | .bcc => "BCC"
  | .bcs => "BCS"
  | .beq => "BEQ"
  | .bne => "BNE"
  | .bmi => "BMI"
  | .bpl => "BPL"
  | .bvc => "BVC"
  | .bvs => "BVS"
  | .jmp => "JMP"
  | .jsr => "JSR"
  | .rts => "RTS"
  | .brk => "BRK"
  | .rti => "RTI"
  | .clc => "CLC"
  | .sec => "SEC"
  | .cld => "CLD"
  | .sed => "SED"
  | .cli => "CLI"
  | .sei => "SEI"
  | .clv => "CLV"
  | .nop => "NOP"
  | .undefined => "???"

/-- The entry of every undefined opcode (R97, spec/48_illegal.md R400). -/
def undefinedEntry : Entry := ⟨.undefined, .imp, 1, 2, .none, false⟩

/-- A documented entry whose cycle count never grows (R96, "none"). -/
def plainEntry (m : Mnemonic) (mode : Mode) (length cycles : Nat) : Entry := ⟨m, mode, length, cycles, .none, true⟩

/-- A documented entry that costs one more cycle on a page crossing (R96, "+1 if page crossed"). -/
def pagedEntry (m : Mnemonic) (mode : Mode) (length cycles : Nat) : Entry := ⟨m, mode, length, cycles, .page, true⟩

/-- A conditional branch's entry (R96, "branch rule"). -/
def branchEntry (m : Mnemonic) : Entry := ⟨m, .rel, 2, 2, .branch, true⟩

/-- Row 0x of the opcode map (R95, R96). -/
def tableRow0 : List Entry :=
  [plainEntry .brk .imp 2 7, plainEntry .ora .izx 2 6, undefinedEntry, undefinedEntry,
   undefinedEntry, plainEntry .ora .zp 2 3, plainEntry .asl .zp 2 5, undefinedEntry,
   plainEntry .php .imp 1 3, plainEntry .ora .imm 2 2, plainEntry .asl .acc 1 2, undefinedEntry,
   undefinedEntry, plainEntry .ora .abs 3 4, plainEntry .asl .abs 3 6, undefinedEntry]

/-- Row 1x of the opcode map (R95, R96). -/
def tableRow1 : List Entry :=
  [branchEntry .bpl, pagedEntry .ora .izy 2 5, undefinedEntry, undefinedEntry,
   undefinedEntry, plainEntry .ora .zpx 2 4, plainEntry .asl .zpx 2 6, undefinedEntry,
   plainEntry .clc .imp 1 2, pagedEntry .ora .aby 3 4, undefinedEntry, undefinedEntry,
   undefinedEntry, pagedEntry .ora .abx 3 4, plainEntry .asl .abx 3 7, undefinedEntry]

/-- Row 2x of the opcode map (R95, R96). -/
def tableRow2 : List Entry :=
  [plainEntry .jsr .abs 3 6, plainEntry .and .izx 2 6, undefinedEntry, undefinedEntry,
   plainEntry .bit .zp 2 3, plainEntry .and .zp 2 3, plainEntry .rol .zp 2 5, undefinedEntry,
   plainEntry .plp .imp 1 4, plainEntry .and .imm 2 2, plainEntry .rol .acc 1 2, undefinedEntry,
   plainEntry .bit .abs 3 4, plainEntry .and .abs 3 4, plainEntry .rol .abs 3 6, undefinedEntry]

/-- Row 3x of the opcode map (R95, R96). -/
def tableRow3 : List Entry :=
  [branchEntry .bmi, pagedEntry .and .izy 2 5, undefinedEntry, undefinedEntry,
   undefinedEntry, plainEntry .and .zpx 2 4, plainEntry .rol .zpx 2 6, undefinedEntry,
   plainEntry .sec .imp 1 2, pagedEntry .and .aby 3 4, undefinedEntry, undefinedEntry,
   undefinedEntry, pagedEntry .and .abx 3 4, plainEntry .rol .abx 3 7, undefinedEntry]

/-- Row 4x of the opcode map (R95, R96). -/
def tableRow4 : List Entry :=
  [plainEntry .rti .imp 1 6, plainEntry .eor .izx 2 6, undefinedEntry, undefinedEntry,
   undefinedEntry, plainEntry .eor .zp 2 3, plainEntry .lsr .zp 2 5, undefinedEntry,
   plainEntry .pha .imp 1 3, plainEntry .eor .imm 2 2, plainEntry .lsr .acc 1 2, undefinedEntry,
   plainEntry .jmp .abs 3 3, plainEntry .eor .abs 3 4, plainEntry .lsr .abs 3 6, undefinedEntry]

/-- Row 5x of the opcode map (R95, R96). -/
def tableRow5 : List Entry :=
  [branchEntry .bvc, pagedEntry .eor .izy 2 5, undefinedEntry, undefinedEntry,
   undefinedEntry, plainEntry .eor .zpx 2 4, plainEntry .lsr .zpx 2 6, undefinedEntry,
   plainEntry .cli .imp 1 2, pagedEntry .eor .aby 3 4, undefinedEntry, undefinedEntry,
   undefinedEntry, pagedEntry .eor .abx 3 4, plainEntry .lsr .abx 3 7, undefinedEntry]

/-- Row 6x of the opcode map (R95, R96). -/
def tableRow6 : List Entry :=
  [plainEntry .rts .imp 1 6, plainEntry .adc .izx 2 6, undefinedEntry, undefinedEntry,
   undefinedEntry, plainEntry .adc .zp 2 3, plainEntry .ror .zp 2 5, undefinedEntry,
   plainEntry .pla .imp 1 4, plainEntry .adc .imm 2 2, plainEntry .ror .acc 1 2, undefinedEntry,
   plainEntry .jmp .ind 3 5, plainEntry .adc .abs 3 4, plainEntry .ror .abs 3 6, undefinedEntry]

/-- Row 7x of the opcode map (R95, R96). -/
def tableRow7 : List Entry :=
  [branchEntry .bvs, pagedEntry .adc .izy 2 5, undefinedEntry, undefinedEntry,
   undefinedEntry, plainEntry .adc .zpx 2 4, plainEntry .ror .zpx 2 6, undefinedEntry,
   plainEntry .sei .imp 1 2, pagedEntry .adc .aby 3 4, undefinedEntry, undefinedEntry,
   undefinedEntry, pagedEntry .adc .abx 3 4, plainEntry .ror .abx 3 7, undefinedEntry]

/-- Row 8x of the opcode map (R95, R96). -/
def tableRow8 : List Entry :=
  [undefinedEntry, plainEntry .sta .izx 2 6, undefinedEntry, undefinedEntry,
   plainEntry .sty .zp 2 3, plainEntry .sta .zp 2 3, plainEntry .stx .zp 2 3, undefinedEntry,
   plainEntry .dey .imp 1 2, undefinedEntry, plainEntry .txa .imp 1 2, undefinedEntry,
   plainEntry .sty .abs 3 4, plainEntry .sta .abs 3 4, plainEntry .stx .abs 3 4, undefinedEntry]

/-- Row 9x of the opcode map (R95, R96). -/
def tableRow9 : List Entry :=
  [branchEntry .bcc, plainEntry .sta .izy 2 6, undefinedEntry, undefinedEntry,
   plainEntry .sty .zpx 2 4, plainEntry .sta .zpx 2 4, plainEntry .stx .zpy 2 4, undefinedEntry,
   plainEntry .tya .imp 1 2, plainEntry .sta .aby 3 5, plainEntry .txs .imp 1 2, undefinedEntry,
   undefinedEntry, plainEntry .sta .abx 3 5, undefinedEntry, undefinedEntry]

/-- Row Ax of the opcode map (R95, R96). -/
def tableRowA : List Entry :=
  [plainEntry .ldy .imm 2 2, plainEntry .lda .izx 2 6, plainEntry .ldx .imm 2 2, undefinedEntry,
   plainEntry .ldy .zp 2 3, plainEntry .lda .zp 2 3, plainEntry .ldx .zp 2 3, undefinedEntry,
   plainEntry .tay .imp 1 2, plainEntry .lda .imm 2 2, plainEntry .tax .imp 1 2, undefinedEntry,
   plainEntry .ldy .abs 3 4, plainEntry .lda .abs 3 4, plainEntry .ldx .abs 3 4, undefinedEntry]

/-- Row Bx of the opcode map (R95, R96). -/
def tableRowB : List Entry :=
  [branchEntry .bcs, pagedEntry .lda .izy 2 5, undefinedEntry, undefinedEntry,
   plainEntry .ldy .zpx 2 4, plainEntry .lda .zpx 2 4, plainEntry .ldx .zpy 2 4, undefinedEntry,
   plainEntry .clv .imp 1 2, pagedEntry .lda .aby 3 4, plainEntry .tsx .imp 1 2, undefinedEntry,
   pagedEntry .ldy .abx 3 4, pagedEntry .lda .abx 3 4, pagedEntry .ldx .aby 3 4, undefinedEntry]

/-- Row Cx of the opcode map (R95, R96). -/
def tableRowC : List Entry :=
  [plainEntry .cpy .imm 2 2, plainEntry .cmp .izx 2 6, undefinedEntry, undefinedEntry,
   plainEntry .cpy .zp 2 3, plainEntry .cmp .zp 2 3, plainEntry .dec .zp 2 5, undefinedEntry,
   plainEntry .iny .imp 1 2, plainEntry .cmp .imm 2 2, plainEntry .dex .imp 1 2, undefinedEntry,
   plainEntry .cpy .abs 3 4, plainEntry .cmp .abs 3 4, plainEntry .dec .abs 3 6, undefinedEntry]

/-- Row Dx of the opcode map (R95, R96). -/
def tableRowD : List Entry :=
  [branchEntry .bne, pagedEntry .cmp .izy 2 5, undefinedEntry, undefinedEntry,
   undefinedEntry, plainEntry .cmp .zpx 2 4, plainEntry .dec .zpx 2 6, undefinedEntry,
   plainEntry .cld .imp 1 2, pagedEntry .cmp .aby 3 4, undefinedEntry, undefinedEntry,
   undefinedEntry, pagedEntry .cmp .abx 3 4, plainEntry .dec .abx 3 7, undefinedEntry]

/-- Row Ex of the opcode map (R95, R96). -/
def tableRowE : List Entry :=
  [plainEntry .cpx .imm 2 2, plainEntry .sbc .izx 2 6, undefinedEntry, undefinedEntry,
   plainEntry .cpx .zp 2 3, plainEntry .sbc .zp 2 3, plainEntry .inc .zp 2 5, undefinedEntry,
   plainEntry .inx .imp 1 2, plainEntry .sbc .imm 2 2, plainEntry .nop .imp 1 2, undefinedEntry,
   plainEntry .cpx .abs 3 4, plainEntry .sbc .abs 3 4, plainEntry .inc .abs 3 6, undefinedEntry]

/-- Row Fx of the opcode map (R95, R96). -/
def tableRowF : List Entry :=
  [branchEntry .beq, pagedEntry .sbc .izy 2 5, undefinedEntry, undefinedEntry,
   undefinedEntry, plainEntry .sbc .zpx 2 4, plainEntry .inc .zpx 2 6, undefinedEntry,
   plainEntry .sed .imp 1 2, pagedEntry .sbc .aby 3 4, undefinedEntry, undefinedEntry,
   undefinedEntry, pagedEntry .sbc .abx 3 4, plainEntry .inc .abx 3 7, undefinedEntry]

/-- The InstructionTable (R97), by the opcode's high nibble and then its low one, as the map of R95 is drawn. -/
def table (opcode : Byte) : Entry :=
  let row := match opcode.toNat / 16 with
    | 0 => tableRow0
    | 1 => tableRow1
    | 2 => tableRow2
    | 3 => tableRow3
    | 4 => tableRow4
    | 5 => tableRow5
    | 6 => tableRow6
    | 7 => tableRow7
    | 8 => tableRow8
    | 9 => tableRow9
    | 10 => tableRowA
    | 11 => tableRowB
    | 12 => tableRowC
    | 13 => tableRowD
    | 14 => tableRowE
    | _ => tableRowF
  row.getD (opcode.toNat % 16) undefinedEntry

/-- The instruction an opcode byte and the two bytes after it stand for (R90: "The opcode byte alone selects the
instruction, its addressing mode and its length"). An instruction shorter than three bytes does not look at the
bytes after it. -/
def instrOf (opcode b1 b2 : Byte) : Instr :=
  match opcode.toNat with
  | 0x00 => .brk b1
  | 0x01 => .oraIzx b1
  | 0x05 => .oraZp b1
  | 0x06 => .aslZp b1
  | 0x08 => .php
  | 0x09 => .oraImm b1
  | 0x0A => .aslAcc
  | 0x0D => .oraAbs b1 b2
  | 0x0E => .aslAbs b1 b2
  | 0x10 => .bpl b1
  | 0x11 => .oraIzy b1
  | 0x15 => .oraZpx b1
  | 0x16 => .aslZpx b1
  | 0x18 => .clc
  | 0x19 => .oraAby b1 b2
  | 0x1D => .oraAbx b1 b2
  | 0x1E => .aslAbx b1 b2
  | 0x20 => .jsr b1 b2
  | 0x21 => .andIzx b1
  | 0x24 => .bitZp b1
  | 0x25 => .andZp b1
  | 0x26 => .rolZp b1
  | 0x28 => .plp
  | 0x29 => .andImm b1
  | 0x2A => .rolAcc
  | 0x2C => .bitAbs b1 b2
  | 0x2D => .andAbs b1 b2
  | 0x2E => .rolAbs b1 b2
  | 0x30 => .bmi b1
  | 0x31 => .andIzy b1
  | 0x35 => .andZpx b1
  | 0x36 => .rolZpx b1
  | 0x38 => .sec
  | 0x39 => .andAby b1 b2
  | 0x3D => .andAbx b1 b2
  | 0x3E => .rolAbx b1 b2
  | 0x40 => .rti
  | 0x41 => .eorIzx b1
  | 0x45 => .eorZp b1
  | 0x46 => .lsrZp b1
  | 0x48 => .pha
  | 0x49 => .eorImm b1
  | 0x4A => .lsrAcc
  | 0x4C => .jmpAbs b1 b2
  | 0x4D => .eorAbs b1 b2
  | 0x4E => .lsrAbs b1 b2
  | 0x50 => .bvc b1
  | 0x51 => .eorIzy b1
  | 0x55 => .eorZpx b1
  | 0x56 => .lsrZpx b1
  | 0x58 => .cli
  | 0x59 => .eorAby b1 b2
  | 0x5D => .eorAbx b1 b2
  | 0x5E => .lsrAbx b1 b2
  | 0x60 => .rts
  | 0x61 => .adcIzx b1
  | 0x65 => .adcZp b1
  | 0x66 => .rorZp b1
  | 0x68 => .pla
  | 0x69 => .adcImm b1
  | 0x6A => .rorAcc
  | 0x6C => .jmpInd b1 b2
  | 0x6D => .adcAbs b1 b2
  | 0x6E => .rorAbs b1 b2
  | 0x70 => .bvs b1
  | 0x71 => .adcIzy b1
  | 0x75 => .adcZpx b1
  | 0x76 => .rorZpx b1
  | 0x78 => .sei
  | 0x79 => .adcAby b1 b2
  | 0x7D => .adcAbx b1 b2
  | 0x7E => .rorAbx b1 b2
  | 0x81 => .staIzx b1
  | 0x84 => .styZp b1
  | 0x85 => .staZp b1
  | 0x86 => .stxZp b1
  | 0x88 => .dey
  | 0x8A => .txa
  | 0x8C => .styAbs b1 b2
  | 0x8D => .staAbs b1 b2
  | 0x8E => .stxAbs b1 b2
  | 0x90 => .bcc b1
  | 0x91 => .staIzy b1
  | 0x94 => .styZpx b1
  | 0x95 => .staZpx b1
  | 0x96 => .stxZpy b1
  | 0x98 => .tya
  | 0x99 => .staAby b1 b2
  | 0x9A => .txs
  | 0x9D => .staAbx b1 b2
  | 0xA0 => .ldyImm b1
  | 0xA1 => .ldaIzx b1
  | 0xA2 => .ldxImm b1
  | 0xA4 => .ldyZp b1
  | 0xA5 => .ldaZp b1
  | 0xA6 => .ldxZp b1
  | 0xA8 => .tay
  | 0xA9 => .ldaImm b1
  | 0xAA => .tax
  | 0xAC => .ldyAbs b1 b2
  | 0xAD => .ldaAbs b1 b2
  | 0xAE => .ldxAbs b1 b2
  | 0xB0 => .bcs b1
  | 0xB1 => .ldaIzy b1
  | 0xB4 => .ldyZpx b1
  | 0xB5 => .ldaZpx b1
  | 0xB6 => .ldxZpy b1
  | 0xB8 => .clv
  | 0xB9 => .ldaAby b1 b2
  | 0xBA => .tsx
  | 0xBC => .ldyAbx b1 b2
  | 0xBD => .ldaAbx b1 b2
  | 0xBE => .ldxAby b1 b2
  | 0xC0 => .cpyImm b1
  | 0xC1 => .cmpIzx b1
  | 0xC4 => .cpyZp b1
  | 0xC5 => .cmpZp b1
  | 0xC6 => .decZp b1
  | 0xC8 => .iny
  | 0xC9 => .cmpImm b1
  | 0xCA => .dex
  | 0xCC => .cpyAbs b1 b2
  | 0xCD => .cmpAbs b1 b2
  | 0xCE => .decAbs b1 b2
  | 0xD0 => .bne b1
  | 0xD1 => .cmpIzy b1
  | 0xD5 => .cmpZpx b1
  | 0xD6 => .decZpx b1
  | 0xD8 => .cld
  | 0xD9 => .cmpAby b1 b2
  | 0xDD => .cmpAbx b1 b2
  | 0xDE => .decAbx b1 b2
  | 0xE0 => .cpxImm b1
  | 0xE1 => .sbcIzx b1
  | 0xE4 => .cpxZp b1
  | 0xE5 => .sbcZp b1
  | 0xE6 => .incZp b1
  | 0xE8 => .inx
  | 0xE9 => .sbcImm b1
  | 0xEA => .nop
  | 0xEC => .cpxAbs b1 b2
  | 0xED => .sbcAbs b1 b2
  | 0xEE => .incAbs b1 b2
  | 0xF0 => .beq b1
  | 0xF1 => .sbcIzy b1
  | 0xF5 => .sbcZpx b1
  | 0xF6 => .incZpx b1
  | 0xF8 => .sed
  | 0xF9 => .sbcAby b1 b2
  | 0xFD => .sbcAbx b1 b2
  | 0xFE => .incAbx b1 b2
  | _ => .undefined opcode

/-- Why a byte sequence is no instruction: it ends before the instruction does. -/
inductive DecodeError where
  | noBytes
  | truncated (opcode : Byte)
  deriving DecidableEq, Repr

/-- Reads one instruction from the front of a byte sequence and answers it with the bytes after it (R90, R102). -/
def decode : List Byte → Except DecodeError (Instr × List Byte)
  | [] => .error .noBytes
  | opcode :: rest =>
    match (table opcode).length, rest with
    | 1, rest => .ok (instrOf opcode 0 0, rest)
    | 2, b1 :: rest => .ok (instrOf opcode b1 0, rest)
    | 3, b1 :: b2 :: rest => .ok (instrOf opcode b1 b2, rest)
    | _, _ => .error (.truncated opcode)

/-- The opcode byte of an instruction (R96). -/
def Instr.opcode : Instr → Byte
  | .ldaIzx _ => 0xA1
  | .ldaZp _ => 0xA5
  | .ldaImm _ => 0xA9
  | .ldaAbs _ _ => 0xAD
  | .ldaIzy _ => 0xB1
  | .ldaZpx _ => 0xB5
  | .ldaAby _ _ => 0xB9
  | .ldaAbx _ _ => 0xBD
  | .ldxImm _ => 0xA2
  | .ldxZp _ => 0xA6
  | .ldxAbs _ _ => 0xAE
  | .ldxZpy _ => 0xB6
  | .ldxAby _ _ => 0xBE
  | .ldyImm _ => 0xA0
  | .ldyZp _ => 0xA4
  | .ldyAbs _ _ => 0xAC
  | .ldyZpx _ => 0xB4
  | .ldyAbx _ _ => 0xBC
  | .staIzx _ => 0x81
  | .staZp _ => 0x85
  | .staAbs _ _ => 0x8D
  | .staIzy _ => 0x91
  | .staZpx _ => 0x95
  | .staAby _ _ => 0x99
  | .staAbx _ _ => 0x9D
  | .stxZp _ => 0x86
  | .stxAbs _ _ => 0x8E
  | .stxZpy _ => 0x96
  | .styZp _ => 0x84
  | .styAbs _ _ => 0x8C
  | .styZpx _ => 0x94
  | .tax => 0xAA
  | .tay => 0xA8
  | .txa => 0x8A
  | .tya => 0x98
  | .tsx => 0xBA
  | .txs => 0x9A
  | .pha => 0x48
  | .php => 0x08
  | .pla => 0x68
  | .plp => 0x28
  | .adcIzx _ => 0x61
  | .adcZp _ => 0x65
  | .adcImm _ => 0x69
  | .adcAbs _ _ => 0x6D
  | .adcIzy _ => 0x71
  | .adcZpx _ => 0x75
  | .adcAby _ _ => 0x79
  | .adcAbx _ _ => 0x7D
  | .sbcIzx _ => 0xE1
  | .sbcZp _ => 0xE5
  | .sbcImm _ => 0xE9
  | .sbcAbs _ _ => 0xED
  | .sbcIzy _ => 0xF1
  | .sbcZpx _ => 0xF5
  | .sbcAby _ _ => 0xF9
  | .sbcAbx _ _ => 0xFD
  | .cmpIzx _ => 0xC1
  | .cmpZp _ => 0xC5
  | .cmpImm _ => 0xC9
  | .cmpAbs _ _ => 0xCD
  | .cmpIzy _ => 0xD1
  | .cmpZpx _ => 0xD5
  | .cmpAby _ _ => 0xD9
  | .cmpAbx _ _ => 0xDD
  | .cpxImm _ => 0xE0
  | .cpxZp _ => 0xE4
  | .cpxAbs _ _ => 0xEC
  | .cpyImm _ => 0xC0
  | .cpyZp _ => 0xC4
  | .cpyAbs _ _ => 0xCC
  | .incZp _ => 0xE6
  | .incAbs _ _ => 0xEE
  | .incZpx _ => 0xF6
  | .incAbx _ _ => 0xFE
  | .decZp _ => 0xC6
  | .decAbs _ _ => 0xCE
  | .decZpx _ => 0xD6
  | .decAbx _ _ => 0xDE
  | .inx => 0xE8
  | .iny => 0xC8
  | .dex => 0xCA
  | .dey => 0x88
  | .andIzx _ => 0x21
  | .andZp _ => 0x25
  | .andImm _ => 0x29
  | .andAbs _ _ => 0x2D
  | .andIzy _ => 0x31
  | .andZpx _ => 0x35
  | .andAby _ _ => 0x39
  | .andAbx _ _ => 0x3D
  | .oraIzx _ => 0x01
  | .oraZp _ => 0x05
  | .oraImm _ => 0x09
  | .oraAbs _ _ => 0x0D
  | .oraIzy _ => 0x11
  | .oraZpx _ => 0x15
  | .oraAby _ _ => 0x19
  | .oraAbx _ _ => 0x1D
  | .eorIzx _ => 0x41
  | .eorZp _ => 0x45
  | .eorImm _ => 0x49
  | .eorAbs _ _ => 0x4D
  | .eorIzy _ => 0x51
  | .eorZpx _ => 0x55
  | .eorAby _ _ => 0x59
  | .eorAbx _ _ => 0x5D
  | .bitZp _ => 0x24
  | .bitAbs _ _ => 0x2C
  | .aslZp _ => 0x06
  | .aslAcc => 0x0A
  | .aslAbs _ _ => 0x0E
  | .aslZpx _ => 0x16
  | .aslAbx _ _ => 0x1E
  | .lsrZp _ => 0x46
  | .lsrAcc => 0x4A
  | .lsrAbs _ _ => 0x4E
  | .lsrZpx _ => 0x56
  | .lsrAbx _ _ => 0x5E
  | .rolZp _ => 0x26
  | .rolAcc => 0x2A
  | .rolAbs _ _ => 0x2E
  | .rolZpx _ => 0x36
  | .rolAbx _ _ => 0x3E
  | .rorZp _ => 0x66
  | .rorAcc => 0x6A
  | .rorAbs _ _ => 0x6E
  | .rorZpx _ => 0x76
  | .rorAbx _ _ => 0x7E
  | .bcc _ => 0x90
  | .bcs _ => 0xB0
  | .beq _ => 0xF0
  | .bne _ => 0xD0
  | .bmi _ => 0x30
  | .bpl _ => 0x10
  | .bvc _ => 0x50
  | .bvs _ => 0x70
  | .jmpAbs _ _ => 0x4C
  | .jmpInd _ _ => 0x6C
  | .jsr _ _ => 0x20
  | .rts => 0x60
  | .brk _ => 0x00
  | .rti => 0x40
  | .clc => 0x18
  | .sec => 0x38
  | .cld => 0xD8
  | .sed => 0xF8
  | .cli => 0x58
  | .sei => 0x78
  | .clv => 0xB8
  | .nop => 0xEA
  | .undefined opcode => opcode

/-- The operand bytes of an instruction, in the order they are fetched (R91). -/
def Instr.operands : Instr → List Byte
  | .ldaIzx b1 => [b1]
  | .ldaZp b1 => [b1]
  | .ldaImm b1 => [b1]
  | .ldaAbs b1 b2 => [b1, b2]
  | .ldaIzy b1 => [b1]
  | .ldaZpx b1 => [b1]
  | .ldaAby b1 b2 => [b1, b2]
  | .ldaAbx b1 b2 => [b1, b2]
  | .ldxImm b1 => [b1]
  | .ldxZp b1 => [b1]
  | .ldxAbs b1 b2 => [b1, b2]
  | .ldxZpy b1 => [b1]
  | .ldxAby b1 b2 => [b1, b2]
  | .ldyImm b1 => [b1]
  | .ldyZp b1 => [b1]
  | .ldyAbs b1 b2 => [b1, b2]
  | .ldyZpx b1 => [b1]
  | .ldyAbx b1 b2 => [b1, b2]
  | .staIzx b1 => [b1]
  | .staZp b1 => [b1]
  | .staAbs b1 b2 => [b1, b2]
  | .staIzy b1 => [b1]
  | .staZpx b1 => [b1]
  | .staAby b1 b2 => [b1, b2]
  | .staAbx b1 b2 => [b1, b2]
  | .stxZp b1 => [b1]
  | .stxAbs b1 b2 => [b1, b2]
  | .stxZpy b1 => [b1]
  | .styZp b1 => [b1]
  | .styAbs b1 b2 => [b1, b2]
  | .styZpx b1 => [b1]
  | .tax => []
  | .tay => []
  | .txa => []
  | .tya => []
  | .tsx => []
  | .txs => []
  | .pha => []
  | .php => []
  | .pla => []
  | .plp => []
  | .adcIzx b1 => [b1]
  | .adcZp b1 => [b1]
  | .adcImm b1 => [b1]
  | .adcAbs b1 b2 => [b1, b2]
  | .adcIzy b1 => [b1]
  | .adcZpx b1 => [b1]
  | .adcAby b1 b2 => [b1, b2]
  | .adcAbx b1 b2 => [b1, b2]
  | .sbcIzx b1 => [b1]
  | .sbcZp b1 => [b1]
  | .sbcImm b1 => [b1]
  | .sbcAbs b1 b2 => [b1, b2]
  | .sbcIzy b1 => [b1]
  | .sbcZpx b1 => [b1]
  | .sbcAby b1 b2 => [b1, b2]
  | .sbcAbx b1 b2 => [b1, b2]
  | .cmpIzx b1 => [b1]
  | .cmpZp b1 => [b1]
  | .cmpImm b1 => [b1]
  | .cmpAbs b1 b2 => [b1, b2]
  | .cmpIzy b1 => [b1]
  | .cmpZpx b1 => [b1]
  | .cmpAby b1 b2 => [b1, b2]
  | .cmpAbx b1 b2 => [b1, b2]
  | .cpxImm b1 => [b1]
  | .cpxZp b1 => [b1]
  | .cpxAbs b1 b2 => [b1, b2]
  | .cpyImm b1 => [b1]
  | .cpyZp b1 => [b1]
  | .cpyAbs b1 b2 => [b1, b2]
  | .incZp b1 => [b1]
  | .incAbs b1 b2 => [b1, b2]
  | .incZpx b1 => [b1]
  | .incAbx b1 b2 => [b1, b2]
  | .decZp b1 => [b1]
  | .decAbs b1 b2 => [b1, b2]
  | .decZpx b1 => [b1]
  | .decAbx b1 b2 => [b1, b2]
  | .inx => []
  | .iny => []
  | .dex => []
  | .dey => []
  | .andIzx b1 => [b1]
  | .andZp b1 => [b1]
  | .andImm b1 => [b1]
  | .andAbs b1 b2 => [b1, b2]
  | .andIzy b1 => [b1]
  | .andZpx b1 => [b1]
  | .andAby b1 b2 => [b1, b2]
  | .andAbx b1 b2 => [b1, b2]
  | .oraIzx b1 => [b1]
  | .oraZp b1 => [b1]
  | .oraImm b1 => [b1]
  | .oraAbs b1 b2 => [b1, b2]
  | .oraIzy b1 => [b1]
  | .oraZpx b1 => [b1]
  | .oraAby b1 b2 => [b1, b2]
  | .oraAbx b1 b2 => [b1, b2]
  | .eorIzx b1 => [b1]
  | .eorZp b1 => [b1]
  | .eorImm b1 => [b1]
  | .eorAbs b1 b2 => [b1, b2]
  | .eorIzy b1 => [b1]
  | .eorZpx b1 => [b1]
  | .eorAby b1 b2 => [b1, b2]
  | .eorAbx b1 b2 => [b1, b2]
  | .bitZp b1 => [b1]
  | .bitAbs b1 b2 => [b1, b2]
  | .aslZp b1 => [b1]
  | .aslAcc => []
  | .aslAbs b1 b2 => [b1, b2]
  | .aslZpx b1 => [b1]
  | .aslAbx b1 b2 => [b1, b2]
  | .lsrZp b1 => [b1]
  | .lsrAcc => []
  | .lsrAbs b1 b2 => [b1, b2]
  | .lsrZpx b1 => [b1]
  | .lsrAbx b1 b2 => [b1, b2]
  | .rolZp b1 => [b1]
  | .rolAcc => []
  | .rolAbs b1 b2 => [b1, b2]
  | .rolZpx b1 => [b1]
  | .rolAbx b1 b2 => [b1, b2]
  | .rorZp b1 => [b1]
  | .rorAcc => []
  | .rorAbs b1 b2 => [b1, b2]
  | .rorZpx b1 => [b1]
  | .rorAbx b1 b2 => [b1, b2]
  | .bcc b1 => [b1]
  | .bcs b1 => [b1]
  | .beq b1 => [b1]
  | .bne b1 => [b1]
  | .bmi b1 => [b1]
  | .bpl b1 => [b1]
  | .bvc b1 => [b1]
  | .bvs b1 => [b1]
  | .jmpAbs b1 b2 => [b1, b2]
  | .jmpInd b1 b2 => [b1, b2]
  | .jsr b1 b2 => [b1, b2]
  | .rts => []
  | .brk signature => [signature]
  | .rti => []
  | .clc => []
  | .sec => []
  | .cld => []
  | .sed => []
  | .cli => []
  | .sei => []
  | .clv => []
  | .nop => []
  | .undefined _ => []

/-- The bytes of an instruction, lowest address first. -/
def encode (i : Instr) : List Byte := i.opcode :: i.operands

/-- Byte `k` of a number whose byte 0 is its lowest eight bits. -/
def byteOf (w k : Nat) : Byte := BitVec.ofNat 8 (w / 256 ^ k)

/-- The three bytes, the longest instruction's, that `w` gives when its bits from `nbits` up are 0. -/
def tableBytes (nbits w : Nat) : List Byte :=
  let v := w % 2 ^ nbits
  [byteOf v 0, byteOf v 1, byteOf v 2]

/-- The instruction the decoder reads from the word `w` of the opcode table: `nbits` bits, the first byte lowest, and
zeros above. -/
def decodeTableWord (nbits w : Nat) : Option Instr :=
  match decode (tableBytes nbits w) with
  | .ok (i, _) => some i
  | .error _ => none

end Sys2Proof
end

