-- ==== Sys2Proof/Machine/Bits.lean ====
section
/-! DEFINITION. Byte order, page and sign-extension helpers (spec/00_scope.md R9, R10). -/

namespace Sys2Proof.Machine

/-- `hi8(w) = w[15:8]` (R9). -/
def hi8 (w : Word) : Byte := w.extractLsb' 8 8

/-- `lo8(w) = w[7:0]` (R9). -/
def lo8 (w : Word) : Byte := w.extractLsb' 0 8

/-- `word(hi, lo) = hi * 256 + lo` (R9). -/
def word (hi lo : Byte) : Word := hi ++ lo

/-- `zext_16(b)` (R10). -/
def zext16 (b : Byte) : Word := b.setWidth 16

/-- `sext_8(b)`, the two's-complement value of a byte (R10). -/
def sext8 (b : Byte) : Int := b.toInt

/-- A byte's two's-complement value as a 16-bit word, for PC-relative arithmetic (R10). -/
def sext16 (b : Byte) : Word := b.signExtend 16

/-- Whether two addresses lie in the same 256-byte page (R148, R162). -/
def samePage (a b : Word) : Bool := hi8 a == hi8 b

end Sys2Proof.Machine
end

