-- ==== Sys2Proof/Machine/State.lean ====
section
/-! DEFINITION. The state of the machine as plain data: the RegisterFile (spec/10_state.md R20 to R31), the engine's
state beyond it (R32 to R39), the memory behind the MemoryInterface (spec/20_memory.md R60), the configuration
(spec/00_scope.md R6), the Debugger's state (R43 to R46), and two fields of the model's own: `faulted` (log entry 7)
and `calls` (log entry 6). -/

namespace Sys2Proof.Machine

/-- The eight flags of R26 less U, which is hardwired to 1 and has no storage (R27). -/
structure Flags where
  n : Bool
  v : Bool
  b : Bool
  d : Bool
  i : Bool
  z : Bool
  c : Bool
  deriving DecidableEq, Repr

/-- The closed set of names `setFlag` and `getFlag` take (spec/40_engine.md R137). -/
inductive FlagName where
  | c | z | i | d | b | u | v | n
  deriving DecidableEq, Repr

/-- The kind of one MemoryInterface call (R128). -/
inductive AccessKind where
  | fetch | read | write | stackRead | stackWrite | vector
  deriving DecidableEq, Repr

/-- One entry of a step's bus log (R128). -/
structure BusEntry where
  kind : AccessKind
  addr : Word
  value : Byte
  deriving DecidableEq, Repr

/-- What a step did (R129). -/
inductive StepKind where
  | instruction | nmi | irq | illegalHalt | halted
  deriving DecidableEq, Repr

/-- The five registers other than P, as a snapshot holds them (R46, R129). -/
structure Regs where
  a : Byte
  x : Byte
  y : Byte
  sp : Byte
  pc : Word
  deriving DecidableEq, Repr

/-- The `pre` field of a step record: the registers and `PackP(P.B)` when the step began (R129). -/
structure Snapshot where
  regs : Regs
  p : Byte
  deriving DecidableEq, Repr

/-- The record a step leaves for observers (R129). `mode` is none where the step decoded no instruction, and
`mnemonic` is empty for a halted step (log entry 9). -/
structure StepRecord where
  kind : StepKind
  addr : Word
  opcode : Option Byte
  operands : List Byte
  mnemonic : String
  mode : Option Mode
  cycles : Nat
  pre : Snapshot
  busLog : List BusEntry
  wrapped : Bool
  deriving DecidableEq, Repr

/-- What the halt report names (R36). -/
structure HaltInfo where
  addr : Word
  opcode : Byte
  deriving DecidableEq, Repr

/-- The failure of a MemoryInterface call, `BusFault(kind, addr)` (spec/20_memory.md R62). -/
structure BusFailure where
  kind : AccessKind
  addr : Word
  deriving DecidableEq, Repr

/-! ### The Debugger's data -/

/-- A term of a condition (spec/60_exceptions.md R460). -/
inductive Term where
  | a | x | y | sp | pc | p
  | flag (f : FlagName)
  | hitCount
  | lastValue
  | const (n : Nat)
  deriving DecidableEq, Repr

/-- The comparisons of R460, on natural numbers. -/
inductive CmpOp where
  | eq | ne | lt | le | gt | ge
  deriving DecidableEq, Repr

/-- A condition of a breakpoint or a watchpoint (R460). -/
inductive Pred where
  | always
  | never
  | cmp (op : CmpOp) (l r : Term)
  | not (q : Pred)
  | and (l r : Pred)
  | or (l r : Pred)
  deriving DecidableEq, Repr

/-- A hit's position: the cycle counter and the Debugger's step counter (R44). -/
structure HitPoint where
  cycle : Nat
  step : Nat
  deriving DecidableEq, Repr

/-- A Breakpoint record, keyed by its address (R44). -/
structure Breakpoint where
  address : Word
  enabled : Bool
  condition : Option Pred
  name : String
  hitCount : Nat
  lastHit : Option HitPoint
  temporary : Bool
  deriving DecidableEq, Repr

/-- The access-type filter of a watchpoint (R45, R465). -/
inductive AccessType where
  | read | write | both | access
  deriving DecidableEq, Repr

/-- A Watchpoint record, keyed by its address (R45). -/
structure Watchpoint where
  address : Word
  accessType : AccessType
  enabled : Bool
  condition : Option Pred
  name : String
  hitCount : Nat
  lastValue : Option Byte
  deriving DecidableEq, Repr

/-- One entry of the execution trace (R46, R472). -/
structure TraceEntry where
  address : Word
  opcode : Byte
  operands : List Byte
  mnemonic : String
  text : String
  regs : Regs
  flags : Byte
  cycles : Nat
  timestamp : Nat
  deriving DecidableEq, Repr

/-- Which kind of record a condition error names (R453, R462). -/
inductive Target where
  | breakpoint | watchpoint
  deriving DecidableEq, Repr

/-- The direction of a watchpoint hit (R453). -/
inductive Direction where
  | read | write
  deriving DecidableEq, Repr

/-- A notification of the Debugger's queue (R453). -/
inductive Event where
  | breakpointHit (address : Word) (name : String) (hitCount cycles stepIndex : Nat)
  | watchpointHit (address : Word) (name : String) (access : Direction) (value : Byte) (hitCount : Nat)
  | conditionError (target : Target) (address : Word)
  | stepped (stepIndex : Nat) (kind : StepKind) (addr : Word) (mnemonic : String) (cycles : Nat)
  deriving DecidableEq, Repr

/-- The Debugger's state (R43 to R46). The breakpoints and the watchpoints are finite maps from an address, held as
lists in ascending address order (R456, R463); `reported` is a set, held as a list with no repeats. -/
structure Debugger where
  active : Bool
  stepIndex : Nat
  reported : List (Target × Word)
  events : List Event
  breakpoints : List Breakpoint
  watchpoints : List Watchpoint
  tracing : Bool
  traceCap : Nat
  trace : List TraceEntry
  deriving DecidableEq, Repr

/-- The Debugger's initial state (R43 to R46); `traceCap` has no stated initial value (log entry 16). -/
def Debugger.initial : Debugger :=
  { active := false, stepIndex := 0, reported := [], events := [], breakpoints := [], watchpoints := [],
    tracing := false, traceCap := 0, trace := [] }

/-! ### The state -/

/-- The whole machine. -/
structure State where
  /-- The accumulator (R21). -/
  a : Byte
  /-- Index register X (R22). -/
  x : Byte
  /-- Index register Y (R23). -/
  y : Byte
  /-- The stack pointer (R24). -/
  sp : Byte
  /-- The program counter (R25). -/
  pc : Word
  /-- The status register P (R26). -/
  p : Flags
  /-- The cycle counter (R32). -/
  cycles : Nat
  /-- The instruction counter (R33). -/
  instructions : Nat
  /-- The NMI edge latch (R34). -/
  nmiPending : Bool
  /-- The IRQ request (R35). -/
  irqPending : Bool
  /-- The halt state (R36). -/
  halted : Bool
  /-- The halt report (R36). -/
  haltInfo : Option HaltInfo
  /-- The stack-wrap diagnostic (R38). -/
  stackWrapCount : Nat
  /-- The record of the most recent step (R39). -/
  lastStep : Option StepRecord
  /-- The bytes behind the MemoryInterface (R60, R83): addresses strictly rising, no entry equal to what an
  unlisted address reads as (Machine/Ops.lean, Memory.wf). -/
  mem : List Host.Cell
  /-- The configuration (spec/00_scope.md R6); no operation of the hardware changes it. -/
  cfg : Config
  /-- The Debugger (R43 to R46); no step of the CPU reads or writes it. -/
  dbg : Debugger
  /-- The model's own: the bus failure that ended the last operation, "a CPU that has faulted" (R62, R425). -/
  faulted : Option BusFailure
  /-- The model's own: the calls made so far to the collaborator of the `device` and `external` windows, the latest
  first. What it answers next may depend on all of them. -/
  calls : List BusCall
  deriving DecidableEq, Repr

/-- Why a step stops. -/
inductive Fault where
  /-- `BusFault(kind, addr)` (R62, R125): raised by any MemoryInterface call that signals a failure. `left` is the
  state the operation leaves, with the effects made before the failing call (R438). Safe: it is the spec's fault. -/
  | busFault (kind : AccessKind) (addr : Word) (left : State)
  /-- Raised by a step of a CPU that has faulted and has not been reset: "no later step is part of a claim" (R62).
  Safe: the machine stops where the spec gives no claim. -/
  | afterFault (failure : BusFailure)
  deriving DecidableEq, Repr

/-- Why an instruction has no meaning. -/
inductive Refusal where
  /-- An arm of exec that has no meaning yet, by the table's mnemonic. Safe. No arm answers it. -/
  | notModelled (mnemonic : String)
  deriving DecidableEq, Repr

/-- The machine right after `reset()` (R42, R520): PC holds the word at the reset vector, which reads 0x0000 in a
memory that lists nothing; I is 1, SP is SP_RESET, the counters, the latches and the halt state are cleared. The
registers and flags reset does not write are 0 (DESIGN CHOICE, log entry 1). -/
def State.reset : State :=
  { a := 0, x := 0, y := 0, sp := Config.reference.spReset, pc := 0x0000
    p := { n := false, v := false, b := false, d := false, i := true, z := false, c := false }
    cycles := 0, instructions := 0, nmiPending := false, irqPending := false, halted := false, haltInfo := none
    stackWrapCount := 0, lastStep := none, mem := [], cfg := Config.reference, dbg := Debugger.initial
    faulted := none, calls := [] }

end Sys2Proof.Machine
end

