-- ==== Sys2Proof/Machine/Ops.lean ====
section
/-! DEFINITION. The named operations over memory, the bus, the stack and the status byte, and interrupt entry and
return (spec/20_memory.md, spec/10_state.md R29 and R30, spec/60_exceptions.md R427 to R431). -/

namespace Sys2Proof.Machine

/-! ### The bytes behind the MemoryInterface -/

/-- What an address that memory does not list reads as: 0x00, as in the spec's test vectors (DESIGN CHOICE, log
entry 4). -/
def Memory.unlisted : Byte := 0x00

/-- The byte at an address. -/
def Memory.read : List Host.Cell → Nat → Byte
  | [], _ => Memory.unlisted
  | (k, v) :: rest, a => if k = a then v else Memory.read rest a

/-- Takes an address off the list. -/
def Memory.erase (m : List Host.Cell) (a : Nat) : List Host.Cell := m.filter fun c => c.1 != a

/-- Lists a byte before the first entry that does not lie below it. -/
def Memory.insert (m : List Host.Cell) (a : Nat) (v : Byte) : List Host.Cell :=
  match m with
  | [] => [(a, v)]
  | c :: rest => if c.1 < a then c :: Memory.insert rest a v else (a, v) :: c :: rest

/-- Stores a byte and keeps the canonical form: a byte equal to what an unlisted address reads as is not listed. -/
def Memory.write (m : List Host.Cell) (a : Nat) (v : Byte) : List Host.Cell :=
  if v = Memory.unlisted then Memory.erase m a else Memory.insert (Memory.erase m a) a v

/-- The canonical form: addresses strictly rising and inside the address space of R60, and no entry equal to what an
unlisted address reads as. -/
abbrev Memory.wf (m : List Host.Cell) : Prop :=
  m.Pairwise (fun l r => l.1 < r.1) ∧ ∀ c ∈ m, c.1 < 65536 ∧ c.2 ≠ Memory.unlisted

/-- The byte stored at an address, whatever window covers it. -/
def State.peek (s : State) (a : Word) : Byte := Memory.read s.mem a.toNat

/-- The state with a byte stored at an address, whatever window covers it. -/
def State.poke (s : State) (a : Word) (v : Byte) : State := { s with mem := Memory.write s.mem a.toNat v }

/-! ### The MemoryInterface (R60, R61) -/

/-- The window that answers for an address, if any: the first that holds it. -/
def windowAt (windows : List Window) (a : Word) : Option Window :=
  windows.find? fun w => decide (w.first ≤ a.toNat) && decide (a.toNat ≤ w.last)

/-- How the MemoryInterface answers a read of an address. -/
def readAnswerOf (c : Config) (a : Word) : ReadAnswer :=
  match windowAt c.windows a with
  | some w => w.onRead
  | none => .cell

/-- How the MemoryInterface answers a write to an address. -/
def writeAnswerOf (c : Config) (a : Word) : WriteAnswer :=
  match windowAt c.windows a with
  | some w => w.onWrite
  | none => .cell

/-- The byte the collaborator answers to a read made now: a free value (log entry 6). -/
def State.deviceByte (s : State) (a : Word) : Byte := Config.deviceByte s.cfg.collaborator s.calls a

/-- Whether the collaborator fails a call made now: a free value (log entry 6). -/
def State.callFails (s : State) (call : BusCall) : Bool := Config.callFails s.cfg.collaborator s.calls call

/-- The state once the collaborator has seen a call. -/
def State.noteCall (call : BusCall) (s : State) : State := { s with calls := call :: s.calls }

/-- One `read(address)` call: a byte, or none where the MemoryInterface signals a failure. -/
def busRead (a : Word) (s : State) : Option Byte × State :=
  match readAnswerOf s.cfg a with
  | .cell => (some (s.peek a), s)
  | .fixed v => (some v, s)
  | .device => (some (s.deviceByte a), s.noteCall (.read a))
  | .external => (if s.callFails (.read a) then none else some (s.deviceByte a), s.noteCall (.read a))
  | .fails => (none, s)

/-- One `write(address, byte)` call: whether it succeeds, and the state after it. What a failing write did to memory is
the collaborator's (spec/20_memory.md R61, R62, spec/44_incdec.md R281): an `external` window leaves it free, since
later answers may depend on the call, and a `fails` window leaves every stored byte as it was (DESIGN CHOICE, log entry
22). -/
def busWrite (a : Word) (v : Byte) (s : State) : Bool × State :=
  match writeAnswerOf s.cfg a with
  | .cell => (true, s.poke a v)
  | .ignored => (true, s)
  | .device => (true, s.noteCall (.write a v))
  | .external => (!s.callFails (.write a v), s.noteCall (.write a v))
  | .fails => (false, s)

/-! ### One step's work -/

/-- A step under way: the state so far, the step's bus log and its `wrapped` bit (R121, R128). -/
structure Work where
  st : State
  log : List BusEntry
  wrapped : Bool
  deriving DecidableEq, Repr

/-- The start of a piece of work, with the bus log of the bytes already fetched. -/
def Work.start (s : State) (log : List BusEntry) : Work := { st := s, log := log, wrapped := false }

/-- Work whose state is changed without a bus call. -/
def Work.mapState (f : State → State) (w : Work) : Work := { w with st := f w.st }

/-- `BusFault(kind, addr)` (R62), with the state left behind marked as a CPU that has faulted (log entry 7). -/
def busFaultOf (kind : AccessKind) (a : Word) (s : State) : Fault :=
  .busFault kind a { s with faulted := some ⟨kind, a⟩ }

/-- `MemRead(addr, 1)` (R11, R62): one read call, logged under its kind. -/
def memRead (kind : AccessKind) (a : Word) (w : Work) : Except Fault (Byte × Work) :=
  match busRead a w.st with
  | (some v, s) => .ok (v, { w with st := s, log := w.log ++ [⟨kind, a, v⟩] })
  | (none, s) => .error (busFaultOf kind a s)

/-- `MemWrite(addr, 1, v)` (R11, R62): one write call, logged under its kind. -/
def memWrite (kind : AccessKind) (a : Word) (v : Byte) (w : Work) : Except Fault Work :=
  match busWrite a v w.st with
  | (true, s) => .ok { w with st := s, log := w.log ++ [⟨kind, a, v⟩] }
  | (false, s) => .error (busFaultOf kind a s)

/-- Two reads, the low byte's first, put together as a word. -/
def readPair (kind : AccessKind) (lowAt highAt : Word) (w : Work) : Except Fault (Word × Work) := do
  let (lo, w) ← memRead kind lowAt w
  let (hi, w) ← memRead kind highAt w
  pure (word hi lo, w)

/-- `ReadWord(a)`, used for vectors (R64). -/
def readWord (a : Word) (w : Work) : Except Fault (Word × Work) := readPair .vector a (a + 1) w

/-- `ReadWordZP(z)`: the high byte wraps inside the zero page (R64). -/
def readWordZP (z : Byte) (w : Work) : Except Fault (Word × Work) := readPair .read (zext16 z) (zext16 (z + 1)) w

/-- The address after `a` inside the page of `a` (R64). -/
def nextInPage (a : Word) : Word := word (hi8 a) (lo8 a + 1)

/-- `ReadWordPageWrap(a)`: the high byte wraps inside the pointer's page (R64). -/
def readWordPageWrap (a : Word) (w : Work) : Except Fault (Word × Work) := readPair .read a (nextInPage a) w

/-! ### The stack (R66 to R69) -/

/-- The stack byte's address, `0x0100 + SP` (R66). -/
def stackAddr (sp : Byte) : Word := 0x0100 + zext16 sp

/-- Counts a stack wrap (R38) where `wraps` holds. -/
def Work.countWrap (wraps : Bool) (w : Work) : Work :=
  if wraps then { w with st := { w.st with stackWrapCount := w.st.stackWrapCount + 1 }, wrapped := true } else w

/-- `Push(v)` (R67): store, count a wrap at SP = 0x00, then decrement SP. -/
def push (v : Byte) (w : Work) : Except Fault Work := do
  let w ← memWrite .stackWrite (stackAddr w.st.sp) v w
  let w := w.countWrap (w.st.sp == 0x00)
  pure (w.mapState fun s => { s with sp := s.sp - 1 })

/-- `Pull()` (R68): count a wrap at SP = 0xFF, increment SP, then load. -/
def pull (w : Work) : Except Fault (Byte × Work) :=
  let w := w.countWrap (w.st.sp == 0xFF)
  let w := w.mapState fun s => { s with sp := s.sp + 1 }
  memRead .stackRead (stackAddr w.st.sp) w

/-- `PushWord(w)` (R69): the high byte first. -/
def pushWord (v : Word) (w : Work) : Except Fault Work := do
  let w ← push (hi8 v) w
  push (lo8 v) w

/-- `PullWord()` (R69): the low byte first. -/
def pullWord (w : Work) : Except Fault (Word × Work) := do
  let (lo, w) ← pull w
  let (hi, w) ← pull w
  pure (word hi lo, w)

/-! ### The status byte (R26 to R30) -/

/-- `PackP(b)` (R29): bits N V 1 b D I Z C, from bit 7 to bit 0. -/
def packP (p : Flags) (b : Bool) : Byte :=
  BitVec.ofBool p.n ++ BitVec.ofBool p.v ++ 1#1 ++ BitVec.ofBool b ++
    BitVec.ofBool p.d ++ BitVec.ofBool p.i ++ BitVec.ofBool p.z ++ BitVec.ofBool p.c

/-- `UnpackP(v)` (R30): bits 5 and 4 are ignored, so the stored B keeps its value. -/
def unpackP (v : Byte) (p : Flags) : Flags :=
  { p with
    n := v.getLsbD 7, v := v.getLsbD 6, d := v.getLsbD 3, i := v.getLsbD 2, z := v.getLsbD 1, c := v.getLsbD 0 }

/-- The value of a flag; U reads true (R27, R137). -/
def Flags.get (p : Flags) : FlagName → Bool
  | .c => p.c
  | .z => p.z
  | .i => p.i
  | .d => p.d
  | .b => p.b
  | .u => true
  | .v => p.v
  | .n => p.n

/-- The flags with one of them written; a write of U has no effect (R27, R137). -/
def Flags.set (p : Flags) (f : FlagName) (value : Bool) : Flags :=
  match f with
  | .c => { p with c := value }
  | .z => { p with z := value }
  | .i => { p with i := value }
  | .d => { p with d := value }
  | .b => { p with b := value }
  | .u => p
  | .v => { p with v := value }
  | .n => { p with n := value }

/-! ### Taking an exception, and the return (R427 to R431, R435) -/

/-- The vector NMI reads (R70). -/
def nmiVector : Word := 0xFFFA

/-- The vector `reset()` reads (R70). -/
def resetVector : Word := 0xFFFC

/-- The vector IRQ and BRK read (R70). -/
def irqVector : Word := 0xFFFE

/-- Interrupt entry, for NMI, IRQ and BRK alike (R430): push PC high byte first, push the status byte with bit 4 as
given, set I and no other flag, and load PC from the vector. -/
def interruptEntry (vector : Word) (brk : Bool) (w : Work) : Except Fault Work := do
  let w ← pushWord w.st.pc w
  let w ← push (packP w.st.p brk) w
  let w := w.mapState fun s => { s with p := { s.p with i := true } }
  let (target, w) ← readWord vector w
  pure (w.mapState fun s => { s with pc := target })

/-- Return from interrupt (R354, R435): pull the status byte, then PC. -/
def interruptReturn (w : Work) : Except Fault Work := do
  let (status, w) ← pull w
  let w := w.mapState fun s => { s with p := unpackP status s.p }
  let (target, w) ← pullWord w
  pure (w.mapState fun s => { s with pc := target })

/-! ### Accounting and the step record (R129, R131) -/

/-- The five registers other than P. -/
def State.regs (s : State) : Regs := { a := s.a, x := s.x, y := s.y, sp := s.sp, pc := s.pc }

/-- The `pre` field of a step record (R121). -/
def State.snapshot (s : State) : Snapshot := { regs := s.regs, p := packP s.p s.p.b }

/-- What a step decoded: nothing for a service or a halted step. -/
structure Decoded where
  opcode : Option Byte
  operands : List Byte
  mnemonic : String
  mode : Option Mode
  deriving DecidableEq, Repr

/-- The step record of a step of the given kind that began in `before`, cost `n` cycles and did the work `w`. -/
def stepRecord (kind : StepKind) (before : State) (d : Decoded) (n : Nat) (w : Work) : StepRecord :=
  { kind := kind, addr := before.pc, opcode := d.opcode, operands := d.operands, mnemonic := d.mnemonic
    mode := d.mode, cycles := n, pre := before.snapshot, busLog := w.log, wrapped := w.wrapped }

/-- The end of a step (R131): the counters advance and the record is left; only a step of kind `instruction` counts
as one. -/
def completeStep (kind : StepKind) (before : State) (d : Decoded) (n : Nat) (w : Work) : State :=
  { w.st with
    cycles := w.st.cycles + n
    instructions := if kind = .instruction then w.st.instructions + 1 else w.st.instructions
    lastStep := some (stepRecord kind before d n w) }

/-- The outcome of a step, from the state it leaves or the fault that ended it. -/
def outcomeOf : Except Fault State → Host.Outcome State Fault Refusal
  | .ok s => .next s
  | .error f => .fault f

/-- `Service(vec, kind)` (R427): a step of its own, 7 cycles, no instruction executed. `before` is the state at the
boundary and `s` the same with the latch cleared. -/
def service (kind : StepKind) (mnemonic : String) (vector : Word) (before s : State) :
    Host.Outcome State Fault Refusal :=
  outcomeOf do
    let w ← interruptEntry vector false (Work.start s [])
    pure (completeStep kind before ⟨none, [], mnemonic, none⟩ 7 w)

/-- `ServiceNMI()` (R428). -/
def serviceNMI (s : State) : Host.Outcome State Fault Refusal :=
  service .nmi "NMI" nmiVector s { s with nmiPending := false }

/-- `ServiceIRQ()` (R429). -/
def serviceIRQ (s : State) : Host.Outcome State Fault Refusal :=
  service .irq "IRQ" irqVector s { s with irqPending := false }

/-- `HaltedStep()` (R130): only the step record is written. -/
def haltedStep (s : State) : State :=
  completeStep .halted s ⟨none, [], "", none⟩ 0 (Work.start s [])

end Sys2Proof.Machine
end

