-- ==== Sys2Proof/Machine/Flags.lean ====
section
/-! DEFINITION. Every flag computation and arithmetic path of the instruction set: SetNZ (R200), binary and decimal
addition and subtraction (spec/43_arithmetic_compare.md R251 to R256), compare (R258), bit test (R304) and the shifts
(R306 to R309). Sums are formed on integers and narrowed at the end (R10). -/

namespace Sys2Proof.Machine

/-- `SetNZ(v)` (R200): Z from the result being 0, N from its bit 7, and no other flag. -/
def setNZ (v : Byte) (s : State) : State := { s with p := { s.p with n := v.getLsbD 7, z := v == 0 } }

/-- The state with the carry flag written. -/
def setC (c : Bool) (s : State) : State := { s with p := { s.p with c := c } }

/-- What a binary addition or subtraction gives (R251, R254). -/
structure AddResult where
  r : Byte
  c : Bool
  v : Bool
  deriving DecidableEq, Repr

/-- `AddBin(a, m, c)` (R251). -/
def addBin (a m : Byte) (c : Bool) : AddResult :=
  let s := a.toNat + m.toNat + c.toNat
  let r := BitVec.ofNat 8 s
  { r := r, c := decide (s > 255), v := ((a ^^^ r) &&& (m ^^^ r) &&& 0x80) != 0 }

/-- `SubBin(a, m, c)`, which is `AddBin(a, m ^ 0xFF, c)` (R254). -/
def subBin (a m : Byte) (c : Bool) : AddResult := addBin a (m ^^^ 0xFF) c

/-- The low nibble's value. -/
def lowNibble (b : Byte) : Nat := (b &&& 0x0F).toNat

/-- The value of a byte with its low nibble cleared, `b & 0xF0`. -/
def highPart (b : Byte) : Byte := b &&& 0xF0

/-- `al` of R253: the low digit's sum with its decimal correction. -/
def decimalAddLow (a m : Byte) (c : Bool) : Nat :=
  let al := lowNibble a + lowNibble m + c.toNat
  if al ≥ 0x0A then (al + 0x06) % 16 + 0x10 else al

/-- What decimal addition gives: the result and the four flags it writes. -/
structure DecimalSum where
  r : Byte
  n : Bool
  v : Bool
  z : Bool
  c : Bool
  deriving DecidableEq, Repr

/-- `AdcDecimal(m)` (R253), with `a` and `c` the accumulator and the carry on entry. -/
def adcDecimal (a m : Byte) (c : Bool) : DecimalSum :=
  let al := decimalAddLow a m c
  let t := (highPart a).toNat + (highPart m).toNat + al
  let ts := sext8 (highPart a) + sext8 (highPart m) + (al : Int)
  let t' := if t ≥ 0xA0 then t + 0x60 else t
  { r := BitVec.ofNat 8 t'
    n := (BitVec.ofInt 8 ts).getLsbD 7
    v := decide (ts < -128 ∨ ts > 127)
    z := decide ((a.toNat + m.toNat + c.toNat) % 256 = 0)
    c := decide (t' ≥ 0x100) }

/-- `SbcDecimalResult(a, m, c)` (R256). The mask of a negative `al - 6` is taken on its two's-complement value. -/
def sbcDecimalResult (a m : Byte) (c : Bool) : Byte :=
  let al : Int := (lowNibble a : Int) - lowNibble m + c.toNat - 1
  let al := if al < 0 then (al - 0x06) % 16 - 0x10 else al
  let t : Int := ((highPart a).toNat : Int) - (highPart m).toNat + al
  let t := if t < 0 then t - 0x60 else t
  BitVec.ofInt 8 t

/-- `Compare(r, m)` (R258): C, Z and N; V is not written. -/
def compare (r m : Byte) (s : State) : State :=
  { s with p := { s.p with c := decide (r.toNat ≥ m.toNat), z := r == m, n := (r - m).getLsbD 7 } }

/-- BIT's flags (R304): N and V from the memory byte, Z from the AND with the accumulator. -/
def bitTest (m : Byte) (s : State) : State :=
  { s with p := { s.p with z := (s.a &&& m) == 0, n := m.getLsbD 7, v := m.getLsbD 6 } }

/-- ASL on a value (R306): the result, and the state with C written from the bit shifted out. -/
def shiftAsl (v : Byte) (s : State) : Byte × State := (v <<< 1, setC (v.getLsbD 7) s)

/-- LSR on a value (R307). -/
def shiftLsr (v : Byte) (s : State) : Byte × State := (v >>> 1, setC (v.getLsbD 0) s)

/-- ROL on a value, through the carry on entry (R308). -/
def shiftRol (v : Byte) (s : State) : Byte × State :=
  ((v <<< 1) ||| (BitVec.ofBool s.p.c).setWidth 8, setC (v.getLsbD 7) s)

/-- ROR on a value, through the carry on entry (R309). -/
def shiftRor (v : Byte) (s : State) : Byte × State :=
  ((v >>> 1) ||| ((BitVec.ofBool s.p.c).setWidth 8 <<< 7), setC (v.getLsbD 0) s)

/-- INC on a value: no carry is written (R280, R281). -/
def stepUp (v : Byte) (s : State) : Byte × State := (v + 1, s)

/-- DEC on a value: no carry is written (R280, R282). -/
def stepDown (v : Byte) (s : State) : Byte × State := (v - 1, s)

end Sys2Proof.Machine
end

