-- ==== Sys2Proof/Machine/Operands.lean ====
section
/-! DEFINITION. The AddressingModeResolver (spec/40_engine.md R140 to R152): effective addresses, page crossings and
the operand byte of every form. It reads X and Y as they are before the instruction's action, may read a pointer, and
writes no register and no memory. -/

namespace Sys2Proof.Machine

/-- The operand bytes of a form, in the order they are fetched (R91). -/
def eaBytes : EaForm → List Byte
  | .zp b1 => [b1]
  | .zpx b1 => [b1]
  | .zpy b1 => [b1]
  | .abs b1 b2 => [b1, b2]
  | .abx b1 b2 => [b1, b2]
  | .aby b1 b2 => [b1, b2]
  | .ind b1 b2 => [b1, b2]
  | .izx b1 => [b1]
  | .izy b1 => [b1]

/-- The operand bytes of a read-class form. -/
def readBytes : ReadForm → List Byte
  | .imm b1 => [b1]
  | .ea f => eaBytes f

/-- An indexed address (R146, R147, R151): the sum wraps at 0xFFFF. -/
def indexed (base : Word) (index : Byte) : Word := base + zext16 index

/-- A page crossing (R148): the indexed address's high byte differs from the base's. -/
def crosses (base : Word) (index : Byte) : Bool := !samePage (indexed base index) base

/-- `Resolve(mode, ops, X, Y)` for the forms that have an effective address: the address, whether a page was crossed,
and the work with the pointer reads logged. -/
def resolve (f : EaForm) (w : Work) : Except Fault (Word × Bool × Work) :=
  match f with
  | .zp b1 => .ok (zext16 b1, false, w)
  | .zpx b1 => .ok (zext16 (b1 + w.st.x), false, w)
  | .zpy b1 => .ok (zext16 (b1 + w.st.y), false, w)
  | .abs b1 b2 => .ok (word b2 b1, false, w)
  | .abx b1 b2 => .ok (indexed (word b2 b1) w.st.x, crosses (word b2 b1) w.st.x, w)
  | .aby b1 b2 => .ok (indexed (word b2 b1) w.st.y, crosses (word b2 b1) w.st.y, w)
  | .ind b1 b2 => do
    let (ea, w) ← readWordPageWrap (word b2 b1) w
    pure (ea, false, w)
  | .izx b1 => do
    let (ea, w) ← readWordZP (b1 + w.st.x) w
    pure (ea, false, w)
  | .izy b1 => do
    let (base, w) ← readWordZP b1 w
    pure (indexed base w.st.y, crosses base w.st.y, w)

end Sys2Proof.Machine
end

