-- ==== Sys2Proof/Machine/Engine.lean ====
section
/-! DEFINITION. The engine's frame around a semantic action (spec/40_engine.md R122 to R124, R131, R153, R154, R160
to R162): the fetched bytes are logged, the mode is resolved, PC is advanced past the instruction, the action runs,
the cycles are counted and the record is left. The families' meanings are calls of the runners below. -/

namespace Sys2Proof.Machine

/-- The bus log of fetching bytes at consecutive addresses from `a` (R90, R128). -/
def fetchLog (a : Word) : List Byte → List BusEntry
  | [] => []
  | b :: rest => ⟨.fetch, a, b⟩ :: fetchLog (a + 1) rest

/-- The address after an instruction of `length` bytes (R124). -/
def pcAfter (pc : Word) (length : Nat) : Word := pc + BitVec.ofNat 16 length

/-- Work with PC advanced past the instruction that began at `pc` (R124). -/
def Work.advance (pc : Word) (length : Nat) (w : Work) : Work :=
  w.mapState fun s => { s with pc := pcAfter pc length }

/-- The cycles a step of kind `instruction` returns (R160 to R162). -/
def cycleCount (d : Entry) (extra : Nat) (crossed : Bool) : Nat :=
  d.baseCycles + extra + if d.penalty = .page ∧ crossed = true then 1 else 0

/-- What the record of an executed instruction says was decoded (R129). -/
def decodedOf (opcode : Byte) (operands : List Byte) : Decoded :=
  { opcode := some opcode, operands := operands, mnemonic := (table opcode).mnemonic.text
    mode := some (table opcode).mode }

/-- `ExecuteInstruction` from the fetched bytes on (R122): `locate` resolves the mode and says whether a page was
crossed; `act` is the semantic action and answers the extra cycles. -/
def runInstr {α : Type} (opcode : Byte) (operands : List Byte)
    (locate : Work → Except Fault (α × Bool × Work)) (act : α → Work → Except Fault (Nat × Work)) (s : State) :
    Host.Outcome State Fault Refusal :=
  outcomeOf do
    let (place, crossed, w) ← locate (Work.start s (fetchLog s.pc (opcode :: operands)))
    let (extra, w) ← act place (w.advance s.pc (table opcode).length)
    pure (completeStep .instruction s (decodedOf opcode operands) (cycleCount (table opcode) extra crossed) w)

/-- An instruction with no effective address (R141, R152). -/
def runPlain (opcode : Byte) (operands : List Byte) (act : Work → Except Fault (Nat × Work)) (s : State) :
    Host.Outcome State Fault Refusal :=
  runInstr opcode operands (fun w => .ok ((), false, w)) (fun _ => act) s

/-- An instruction with an effective address. -/
def runEa (opcode : Byte) (f : EaForm) (act : Word → Work → Except Fault (Nat × Work)) (s : State) :
    Host.Outcome State Fault Refusal :=
  runInstr opcode (eaBytes f) (resolve f) act s

/-- An instruction that only changes registers and flags. -/
def runInherent (opcode : Byte) (f : State → State) (s : State) : Host.Outcome State Fault Refusal :=
  runPlain opcode [] (fun w => .ok (0, w.mapState f)) s

/-- A read-class action at an address: one read, then the action on the byte (R153). -/
def readAct (act : Byte → State → State) (ea : Word) (w : Work) : Except Fault (Nat × Work) := do
  let (v, w) ← memRead .read ea w
  pure (0, w.mapState (act v))

/-- A read-class instruction (R153, R154). -/
def runRead (opcode : Byte) (f : ReadForm) (act : Byte → State → State) (s : State) :
    Host.Outcome State Fault Refusal :=
  match f with
  | .imm b1 => runPlain opcode [b1] (fun w => .ok (0, w.mapState (act b1))) s
  | .ea f => runEa opcode f (readAct act) s

/-- A write-class action: one write and no read (R153). -/
def writeAct (value : State → Byte) (ea : Word) (w : Work) : Except Fault (Nat × Work) := do
  let w ← memWrite .write ea (value w.st) w
  pure (0, w)

/-- A write-class instruction (R153, R154). -/
def runWrite (opcode : Byte) (f : EaForm) (value : State → Byte) (s : State) : Host.Outcome State Fault Refusal :=
  runEa opcode f (writeAct value) s

/-- A read-modify-write action: one read, the new value and the carry `f` gives, one write, then N and Z (R153, R306 to
R309). The carry is written before the store, as the pseudocode has it, so a failing store leaves it written: the
registers are then "whatever the pseudocode had written up to the failing access" (R62, log entry 10). -/
def modifyAct (f : Byte → State → Byte × State) (ea : Word) (w : Work) : Except Fault (Nat × Work) := do
  let (v, w) ← memRead .read ea w
  let r := f v w.st
  let w ← memWrite .write ea r.1 { w with st := r.2 }
  pure (0, w.mapState (setNZ r.1))

/-- The memory form of a read-modify-write instruction. -/
def runModify (opcode : Byte) (form : EaForm) (f : Byte → State → Byte × State) (s : State) :
    Host.Outcome State Fault Refusal :=
  runEa opcode form (modifyAct f) s

/-- The accumulator form's effect: no memory access (R305). -/
def modifyA (f : Byte → State → Byte × State) (s : State) : State :=
  let r := f s.a s
  setNZ r.1 { r.2 with a := r.1 }

/-- The accumulator form of a shift. -/
def runAccumulator (opcode : Byte) (f : Byte → State → Byte × State) (s : State) : Host.Outcome State Fault Refusal :=
  runInherent opcode (modifyA f) s

end Sys2Proof.Machine
end

