-- ==== Sys2Proof/Machine/Arithmetic.lean ====
section
/-! DEFINITION. The arithmetic and compare instructions (spec/43_arithmetic_compare.md R250 to R261). -/

namespace Sys2Proof.Machine

/-- ADC's action (R252): the binary path where D is 0, the decimal path of R253 where D is 1. -/
def actAdc (m : Byte) (s : State) : State :=
  if s.p.d then
    let t := adcDecimal s.a m s.p.c
    { s with a := t.r, p := { s.p with n := t.n, v := t.v, z := t.z, c := t.c } }
  else
    let t := addBin s.a m s.p.c
    setNZ t.r { s with a := t.r, p := { s.p with c := t.c, v := t.v } }

/-- 0x61 ADC indexed-indirect (zp,X) (R252). -/
def execAdcIzx (b1 : Byte) (s : State) : Host.Outcome State Fault Refusal :=
  runRead 0x61 (.ea (.izx b1)) actAdc s

/-- 0x65 ADC zero-page (R252). -/
def execAdcZp (b1 : Byte) (s : State) : Host.Outcome State Fault Refusal :=
  runRead 0x65 (.ea (.zp b1)) actAdc s

/-- 0x69 ADC immediate (R252). -/
def execAdcImm (b1 : Byte) (s : State) : Host.Outcome State Fault Refusal :=
  runRead 0x69 (.imm b1) actAdc s

/-- 0x6D ADC absolute (R252). -/
def execAdcAbs (b1 b2 : Byte) (s : State) : Host.Outcome State Fault Refusal :=
  runRead 0x6D (.ea (.abs b1 b2)) actAdc s

/-- 0x71 ADC indirect-indexed (zp),Y (R252). -/
def execAdcIzy (b1 : Byte) (s : State) : Host.Outcome State Fault Refusal :=
  runRead 0x71 (.ea (.izy b1)) actAdc s

/-- 0x75 ADC zero-page,X (R252). -/
def execAdcZpx (b1 : Byte) (s : State) : Host.Outcome State Fault Refusal :=
  runRead 0x75 (.ea (.zpx b1)) actAdc s

/-- 0x79 ADC absolute,Y (R252). -/
def execAdcAby (b1 b2 : Byte) (s : State) : Host.Outcome State Fault Refusal :=
  runRead 0x79 (.ea (.aby b1 b2)) actAdc s

/-- 0x7D ADC absolute,X (R252). -/
def execAdcAbx (b1 b2 : Byte) (s : State) : Host.Outcome State Fault Refusal :=
  runRead 0x7D (.ea (.abx b1 b2)) actAdc s

/-- SBC's action (R255): the flags come from the binary difference in both modes; A is decimal where D is 1 (R256). -/
def actSbc (m : Byte) (s : State) : State :=
  let t := subBin s.a m s.p.c
  setNZ t.r
    { s with
      a := if s.p.d then sbcDecimalResult s.a m s.p.c else t.r
      p := { s.p with c := t.c, v := t.v } }

/-- 0xE1 SBC indexed-indirect (zp,X) (R255). -/
def execSbcIzx (b1 : Byte) (s : State) : Host.Outcome State Fault Refusal :=
  runRead 0xE1 (.ea (.izx b1)) actSbc s

/-- 0xE5 SBC zero-page (R255). -/
def execSbcZp (b1 : Byte) (s : State) : Host.Outcome State Fault Refusal :=
  runRead 0xE5 (.ea (.zp b1)) actSbc s

/-- 0xE9 SBC immediate (R255). -/
def execSbcImm (b1 : Byte) (s : State) : Host.Outcome State Fault Refusal :=
  runRead 0xE9 (.imm b1) actSbc s

/-- 0xED SBC absolute (R255). -/
def execSbcAbs (b1 b2 : Byte) (s : State) : Host.Outcome State Fault Refusal :=
  runRead 0xED (.ea (.abs b1 b2)) actSbc s

/-- 0xF1 SBC indirect-indexed (zp),Y (R255). -/
def execSbcIzy (b1 : Byte) (s : State) : Host.Outcome State Fault Refusal :=
  runRead 0xF1 (.ea (.izy b1)) actSbc s

/-- 0xF5 SBC zero-page,X (R255). -/
def execSbcZpx (b1 : Byte) (s : State) : Host.Outcome State Fault Refusal :=
  runRead 0xF5 (.ea (.zpx b1)) actSbc s

/-- 0xF9 SBC absolute,Y (R255). -/
def execSbcAby (b1 b2 : Byte) (s : State) : Host.Outcome State Fault Refusal :=
  runRead 0xF9 (.ea (.aby b1 b2)) actSbc s

/-- 0xFD SBC absolute,X (R255). -/
def execSbcAbx (b1 b2 : Byte) (s : State) : Host.Outcome State Fault Refusal :=
  runRead 0xFD (.ea (.abx b1 b2)) actSbc s

/-- CMP's action (R259). -/
def actCmp (m : Byte) (s : State) : State :=
  compare s.a m s

/-- 0xC1 CMP indexed-indirect (zp,X) (R259). -/
def execCmpIzx (b1 : Byte) (s : State) : Host.Outcome State Fault Refusal :=
  runRead 0xC1 (.ea (.izx b1)) actCmp s

/-- 0xC5 CMP zero-page (R259). -/
def execCmpZp (b1 : Byte) (s : State) : Host.Outcome State Fault Refusal :=
  runRead 0xC5 (.ea (.zp b1)) actCmp s

/-- 0xC9 CMP immediate (R259). -/
def execCmpImm (b1 : Byte) (s : State) : Host.Outcome State Fault Refusal :=
  runRead 0xC9 (.imm b1) actCmp s

/-- 0xCD CMP absolute (R259). -/
def execCmpAbs (b1 b2 : Byte) (s : State) : Host.Outcome State Fault Refusal :=
  runRead 0xCD (.ea (.abs b1 b2)) actCmp s

/-- 0xD1 CMP indirect-indexed (zp),Y (R259). -/
def execCmpIzy (b1 : Byte) (s : State) : Host.Outcome State Fault Refusal :=
  runRead 0xD1 (.ea (.izy b1)) actCmp s

/-- 0xD5 CMP zero-page,X (R259). -/
def execCmpZpx (b1 : Byte) (s : State) : Host.Outcome State Fault Refusal :=
  runRead 0xD5 (.ea (.zpx b1)) actCmp s

/-- 0xD9 CMP absolute,Y (R259). -/
def execCmpAby (b1 b2 : Byte) (s : State) : Host.Outcome State Fault Refusal :=
  runRead 0xD9 (.ea (.aby b1 b2)) actCmp s

/-- 0xDD CMP absolute,X (R259). -/
def execCmpAbx (b1 b2 : Byte) (s : State) : Host.Outcome State Fault Refusal :=
  runRead 0xDD (.ea (.abx b1 b2)) actCmp s

/-- CPX's action (R260). -/
def actCpx (m : Byte) (s : State) : State :=
  compare s.x m s

/-- 0xE0 CPX immediate (R260). -/
def execCpxImm (b1 : Byte) (s : State) : Host.Outcome State Fault Refusal :=
  runRead 0xE0 (.imm b1) actCpx s

/-- 0xE4 CPX zero-page (R260). -/
def execCpxZp (b1 : Byte) (s : State) : Host.Outcome State Fault Refusal :=
  runRead 0xE4 (.ea (.zp b1)) actCpx s

/-- 0xEC CPX absolute (R260). -/
def execCpxAbs (b1 b2 : Byte) (s : State) : Host.Outcome State Fault Refusal :=
  runRead 0xEC (.ea (.abs b1 b2)) actCpx s

/-- CPY's action (R261). -/
def actCpy (m : Byte) (s : State) : State :=
  compare s.y m s

/-- 0xC0 CPY immediate (R261). -/
def execCpyImm (b1 : Byte) (s : State) : Host.Outcome State Fault Refusal :=
  runRead 0xC0 (.imm b1) actCpy s

/-- 0xC4 CPY zero-page (R261). -/
def execCpyZp (b1 : Byte) (s : State) : Host.Outcome State Fault Refusal :=
  runRead 0xC4 (.ea (.zp b1)) actCpy s

/-- 0xCC CPY absolute (R261). -/
def execCpyAbs (b1 b2 : Byte) (s : State) : Host.Outcome State Fault Refusal :=
  runRead 0xCC (.ea (.abs b1 b2)) actCpy s

end Sys2Proof.Machine
end

