-- ==== Sys2Proof/Machine/Control.lean ====
section
/-! DEFINITION. The control-transfer instructions (spec/46_control.md R340 to R354). -/

namespace Sys2Proof.Machine

/-! ### Conditional branches (R341 to R349) -/

/-- The target of a branch, relative to the address of the next instruction (R341). -/
def branchTarget (next : Word) (offset : Byte) : Word := next + sext16 offset

/-- `Branch(cond)` (R341, R162): the extra cycles are 1 to the page of the next instruction and 2 to another. -/
def branch (taken : Bool) (offset : Byte) (w : Work) : Nat × Work :=
  if taken then
    let target := branchTarget w.st.pc offset
    (if samePage target w.st.pc then 1 else 2, w.mapState fun s => { s with pc := target })
  else (0, w)

/-- A conditional branch, with its condition on the flags. -/
def runBranch (opcode : Byte) (b1 : Byte) (cond : Flags → Bool) (s : State) : Host.Outcome State Fault Refusal :=
  runPlain opcode [b1] (fun w => .ok (branch (cond w.st.p) b1 w)) s

/-- 0x90 BCC relative (R342). -/
def execBcc (b1 : Byte) (s : State) : Host.Outcome State Fault Refusal :=
  runBranch 0x90 b1 (fun p => !p.c) s

/-- 0xB0 BCS relative (R343). -/
def execBcs (b1 : Byte) (s : State) : Host.Outcome State Fault Refusal :=
  runBranch 0xB0 b1 (fun p => p.c) s

/-- 0xF0 BEQ relative (R344). -/
def execBeq (b1 : Byte) (s : State) : Host.Outcome State Fault Refusal :=
  runBranch 0xF0 b1 (fun p => p.z) s

/-- 0xD0 BNE relative (R345). -/
def execBne (b1 : Byte) (s : State) : Host.Outcome State Fault Refusal :=
  runBranch 0xD0 b1 (fun p => !p.z) s

/-- 0x30 BMI relative (R346). -/
def execBmi (b1 : Byte) (s : State) : Host.Outcome State Fault Refusal :=
  runBranch 0x30 b1 (fun p => p.n) s

/-- 0x10 BPL relative (R347). -/
def execBpl (b1 : Byte) (s : State) : Host.Outcome State Fault Refusal :=
  runBranch 0x10 b1 (fun p => !p.n) s

/-- 0x50 BVC relative (R348). -/
def execBvc (b1 : Byte) (s : State) : Host.Outcome State Fault Refusal :=
  runBranch 0x50 b1 (fun p => !p.v) s

/-- 0x70 BVS relative (R349). -/
def execBvs (b1 : Byte) (s : State) : Host.Outcome State Fault Refusal :=
  runBranch 0x70 b1 (fun p => p.v) s

/-! ### Jumps, calls and returns (R350 to R354) -/

/-- JMP's action: `PC <- ea` (R350). -/
def actJmp (ea : Word) (w : Work) : Except Fault (Nat × Work) :=
  .ok (0, w.mapState fun s => { s with pc := ea })

/-- 0x4C JMP absolute (R350). -/
def execJmpAbs (b1 b2 : Byte) (s : State) : Host.Outcome State Fault Refusal :=
  runEa 0x4C (.abs b1 b2) actJmp s

/-- 0x6C JMP indirect (R350). -/
def execJmpInd (b1 b2 : Byte) (s : State) : Host.Outcome State Fault Refusal :=
  runEa 0x6C (.ind b1 b2) actJmp s

/-- JSR's action: push the address of the instruction's last byte, then jump (R351). -/
def actJsr (ea : Word) (w : Work) : Except Fault (Nat × Work) := do
  let w ← pushWord (w.st.pc - 1) w
  pure (0, w.mapState fun s => { s with pc := ea })

/-- 0x20 JSR absolute (R351). -/
def execJsr (b1 b2 : Byte) (s : State) : Host.Outcome State Fault Refusal :=
  runEa 0x20 (.abs b1 b2) actJsr s

/-- RTS's action: the pulled word plus 1 (R352). -/
def actRts (w : Work) : Except Fault (Nat × Work) := do
  let (r, w) ← pullWord w
  pure (0, w.mapState fun s => { s with pc := r + 1 })

/-- 0x60 RTS implied (R352). -/
def execRts (s : State) : Host.Outcome State Fault Refusal :=
  runPlain 0x60 [] actRts s

/-- BRK's action: the interrupt entry with bit 4 set, whatever I is (R353); PC is already BRK's address plus 2. -/
def actBrk (w : Work) : Except Fault (Nat × Work) := do
  let w ← interruptEntry irqVector true w
  pure (0, w)

/-- 0x00 BRK implied (R353). -/
def execBrk (signature : Byte) (s : State) : Host.Outcome State Fault Refusal :=
  runPlain 0x00 [signature] actBrk s

/-- RTI's action (R354). -/
def actRti (w : Work) : Except Fault (Nat × Work) := do
  let w ← interruptReturn w
  pure (0, w)

/-- 0x40 RTI implied (R354). -/
def execRti (s : State) : Host.Outcome State Fault Refusal :=
  runPlain 0x40 [] actRti s

end Sys2Proof.Machine
end

