-- ==== Sys2Proof/Machine/FlagOps.lean ====
section
/-! DEFINITION. The flag instructions and NOP (spec/47_flags_nop.md R380 to R388). -/

namespace Sys2Proof.Machine

/-- CLC's action (R381). -/
def actClc (s : State) : State :=
  { s with p := { s.p with c := false } }

/-- 0x18 CLC implied (R381). -/
def execClc (s : State) : Host.Outcome State Fault Refusal :=
  runInherent 0x18 actClc s

/-- SEC's action (R382). -/
def actSec (s : State) : State :=
  { s with p := { s.p with c := true } }

/-- 0x38 SEC implied (R382). -/
def execSec (s : State) : Host.Outcome State Fault Refusal :=
  runInherent 0x38 actSec s

/-- CLD's action (R383). -/
def actCld (s : State) : State :=
  { s with p := { s.p with d := false } }

/-- 0xD8 CLD implied (R383). -/
def execCld (s : State) : Host.Outcome State Fault Refusal :=
  runInherent 0xD8 actCld s

/-- SED's action (R384). -/
def actSed (s : State) : State :=
  { s with p := { s.p with d := true } }

/-- 0xF8 SED implied (R384). -/
def execSed (s : State) : Host.Outcome State Fault Refusal :=
  runInherent 0xF8 actSed s

/-- CLI's action (R385). -/
def actCli (s : State) : State :=
  { s with p := { s.p with i := false } }

/-- 0x58 CLI implied (R385). -/
def execCli (s : State) : Host.Outcome State Fault Refusal :=
  runInherent 0x58 actCli s

/-- SEI's action (R386). -/
def actSei (s : State) : State :=
  { s with p := { s.p with i := true } }

/-- 0x78 SEI implied (R386). -/
def execSei (s : State) : Host.Outcome State Fault Refusal :=
  runInherent 0x78 actSei s

/-- CLV's action (R387). -/
def actClv (s : State) : State :=
  { s with p := { s.p with v := false } }

/-- 0xB8 CLV implied (R387). -/
def execClv (s : State) : Host.Outcome State Fault Refusal :=
  runInherent 0xB8 actClv s

/-- NOP's action: nothing (R388). -/
def actNop (s : State) : State :=
  s

/-- 0xEA NOP implied (R388). -/
def execNop (s : State) : Host.Outcome State Fault Refusal :=
  runInherent 0xEA actNop s

end Sys2Proof.Machine
end

