-- ==== Sys2Proof/Machine/Illegal.lean ====
section
/-! DEFINITION. The undefined opcodes (spec/48_illegal.md R400 to R403). -/

namespace Sys2Proof.Machine

/-- `Undefined(opc)` under `ILLEGAL_POLICY = Halt` (R401): the CPU halts with its report and PC stays on the opcode. -/
def haltOn (opcode : Byte) (s : State) : State :=
  let w := Work.start { s with halted := true, haltInfo := some ⟨s.pc, opcode⟩ } (fetchLog s.pc [opcode])
  completeStep .illegalHalt s (decodedOf opcode []) 0 w

/-- An undefined opcode (R401): halt and report, or a fixed-cost no-op of one byte and two cycles. -/
def execUndefined (opcode : Byte) (s : State) : Host.Outcome State Fault Refusal :=
  match s.cfg.illegalPolicy with
  | .halt => .next (haltOn opcode s)
  | .nop =>
    let w := (Work.start s (fetchLog s.pc [opcode])).advance s.pc undefinedEntry.length
    .next (completeStep .instruction s (decodedOf opcode []) undefinedEntry.baseCycles w)

end Sys2Proof.Machine
end

