-- ==== Sys2Proof/Machine/IncDec.lean ====
section
/-! DEFINITION. The increment and decrement instructions (spec/44_incdec.md R280 to R286). -/

namespace Sys2Proof.Machine

/-- 0xE6 INC zero-page (R281). -/
def execIncZp (b1 : Byte) (s : State) : Host.Outcome State Fault Refusal :=
  runModify 0xE6 (.zp b1) stepUp s

/-- 0xEE INC absolute (R281). -/
def execIncAbs (b1 b2 : Byte) (s : State) : Host.Outcome State Fault Refusal :=
  runModify 0xEE (.abs b1 b2) stepUp s

/-- 0xF6 INC zero-page,X (R281). -/
def execIncZpx (b1 : Byte) (s : State) : Host.Outcome State Fault Refusal :=
  runModify 0xF6 (.zpx b1) stepUp s

/-- 0xFE INC absolute,X (R281). -/
def execIncAbx (b1 b2 : Byte) (s : State) : Host.Outcome State Fault Refusal :=
  runModify 0xFE (.abx b1 b2) stepUp s

/-- 0xC6 DEC zero-page (R282). -/
def execDecZp (b1 : Byte) (s : State) : Host.Outcome State Fault Refusal :=
  runModify 0xC6 (.zp b1) stepDown s

/-- 0xCE DEC absolute (R282). -/
def execDecAbs (b1 b2 : Byte) (s : State) : Host.Outcome State Fault Refusal :=
  runModify 0xCE (.abs b1 b2) stepDown s

/-- 0xD6 DEC zero-page,X (R282). -/
def execDecZpx (b1 : Byte) (s : State) : Host.Outcome State Fault Refusal :=
  runModify 0xD6 (.zpx b1) stepDown s

/-- 0xDE DEC absolute,X (R282). -/
def execDecAbx (b1 b2 : Byte) (s : State) : Host.Outcome State Fault Refusal :=
  runModify 0xDE (.abx b1 b2) stepDown s

/-- INX's action (R283). -/
def actInx (s : State) : State :=
  setNZ (s.x + 1) { s with x := s.x + 1 }

/-- 0xE8 INX implied (R283). -/
def execInx (s : State) : Host.Outcome State Fault Refusal :=
  runInherent 0xE8 actInx s

/-- INY's action (R284). -/
def actIny (s : State) : State :=
  setNZ (s.y + 1) { s with y := s.y + 1 }

/-- 0xC8 INY implied (R284). -/
def execIny (s : State) : Host.Outcome State Fault Refusal :=
  runInherent 0xC8 actIny s

/-- DEX's action (R285). -/
def actDex (s : State) : State :=
  setNZ (s.x - 1) { s with x := s.x - 1 }

/-- 0xCA DEX implied (R285). -/
def execDex (s : State) : Host.Outcome State Fault Refusal :=
  runInherent 0xCA actDex s

/-- DEY's action (R286). -/
def actDey (s : State) : State :=
  setNZ (s.y - 1) { s with y := s.y - 1 }

/-- 0x88 DEY implied (R286). -/
def execDey (s : State) : Host.Outcome State Fault Refusal :=
  runInherent 0x88 actDey s

end Sys2Proof.Machine
end

