-- ==== Sys2Proof/Machine/LoadStore.lean ====
section
/-! DEFINITION. The load, store and transfer instructions (spec/41_load_store_transfer.md R200 to R213). -/

namespace Sys2Proof.Machine

/-! ### Loads (R202 to R204) -/

/-- LDA's action: `A <- Operand(); SetNZ(A)` (R202). -/
def actLda (v : Byte) (s : State) : State :=
  setNZ v { s with a := v }

/-- 0xA1 LDA indexed-indirect (zp,X) (R202). -/
def execLdaIzx (b1 : Byte) (s : State) : Host.Outcome State Fault Refusal :=
  runRead 0xA1 (.ea (.izx b1)) actLda s

/-- 0xA5 LDA zero-page (R202). -/
def execLdaZp (b1 : Byte) (s : State) : Host.Outcome State Fault Refusal :=
  runRead 0xA5 (.ea (.zp b1)) actLda s

/-- 0xA9 LDA immediate (R202). -/
def execLdaImm (b1 : Byte) (s : State) : Host.Outcome State Fault Refusal :=
  runRead 0xA9 (.imm b1) actLda s

/-- 0xAD LDA absolute (R202). -/
def execLdaAbs (b1 b2 : Byte) (s : State) : Host.Outcome State Fault Refusal :=
  runRead 0xAD (.ea (.abs b1 b2)) actLda s

/-- 0xB1 LDA indirect-indexed (zp),Y (R202). -/
def execLdaIzy (b1 : Byte) (s : State) : Host.Outcome State Fault Refusal :=
  runRead 0xB1 (.ea (.izy b1)) actLda s

/-- 0xB5 LDA zero-page,X (R202). -/
def execLdaZpx (b1 : Byte) (s : State) : Host.Outcome State Fault Refusal :=
  runRead 0xB5 (.ea (.zpx b1)) actLda s

/-- 0xB9 LDA absolute,Y (R202). -/
def execLdaAby (b1 b2 : Byte) (s : State) : Host.Outcome State Fault Refusal :=
  runRead 0xB9 (.ea (.aby b1 b2)) actLda s

/-- 0xBD LDA absolute,X (R202). -/
def execLdaAbx (b1 b2 : Byte) (s : State) : Host.Outcome State Fault Refusal :=
  runRead 0xBD (.ea (.abx b1 b2)) actLda s

/-- LDX's action (R203). -/
def actLdx (v : Byte) (s : State) : State :=
  setNZ v { s with x := v }

/-- 0xA2 LDX immediate (R203). -/
def execLdxImm (b1 : Byte) (s : State) : Host.Outcome State Fault Refusal :=
  runRead 0xA2 (.imm b1) actLdx s

/-- 0xA6 LDX zero-page (R203). -/
def execLdxZp (b1 : Byte) (s : State) : Host.Outcome State Fault Refusal :=
  runRead 0xA6 (.ea (.zp b1)) actLdx s

/-- 0xAE LDX absolute (R203). -/
def execLdxAbs (b1 b2 : Byte) (s : State) : Host.Outcome State Fault Refusal :=
  runRead 0xAE (.ea (.abs b1 b2)) actLdx s

/-- 0xB6 LDX zero-page,Y (R203). -/
def execLdxZpy (b1 : Byte) (s : State) : Host.Outcome State Fault Refusal :=
  runRead 0xB6 (.ea (.zpy b1)) actLdx s

/-- 0xBE LDX absolute,Y (R203). -/
def execLdxAby (b1 b2 : Byte) (s : State) : Host.Outcome State Fault Refusal :=
  runRead 0xBE (.ea (.aby b1 b2)) actLdx s

/-- LDY's action (R204). -/
def actLdy (v : Byte) (s : State) : State :=
  setNZ v { s with y := v }

/-- 0xA0 LDY immediate (R204). -/
def execLdyImm (b1 : Byte) (s : State) : Host.Outcome State Fault Refusal :=
  runRead 0xA0 (.imm b1) actLdy s

/-- 0xA4 LDY zero-page (R204). -/
def execLdyZp (b1 : Byte) (s : State) : Host.Outcome State Fault Refusal :=
  runRead 0xA4 (.ea (.zp b1)) actLdy s

/-- 0xAC LDY absolute (R204). -/
def execLdyAbs (b1 b2 : Byte) (s : State) : Host.Outcome State Fault Refusal :=
  runRead 0xAC (.ea (.abs b1 b2)) actLdy s

/-- 0xB4 LDY zero-page,X (R204). -/
def execLdyZpx (b1 : Byte) (s : State) : Host.Outcome State Fault Refusal :=
  runRead 0xB4 (.ea (.zpx b1)) actLdy s

/-- 0xBC LDY absolute,X (R204). -/
def execLdyAbx (b1 b2 : Byte) (s : State) : Host.Outcome State Fault Refusal :=
  runRead 0xBC (.ea (.abx b1 b2)) actLdy s

/-! ### Stores (R205 to R207): no flag is written -/

/-- 0x81 STA indexed-indirect (zp,X) (R205). -/
def execStaIzx (b1 : Byte) (s : State) : Host.Outcome State Fault Refusal :=
  runWrite 0x81 (.izx b1) (fun s => s.a) s

/-- 0x85 STA zero-page (R205). -/
def execStaZp (b1 : Byte) (s : State) : Host.Outcome State Fault Refusal :=
  runWrite 0x85 (.zp b1) (fun s => s.a) s

/-- 0x8D STA absolute (R205). -/
def execStaAbs (b1 b2 : Byte) (s : State) : Host.Outcome State Fault Refusal :=
  runWrite 0x8D (.abs b1 b2) (fun s => s.a) s

/-- 0x91 STA indirect-indexed (zp),Y (R205). -/
def execStaIzy (b1 : Byte) (s : State) : Host.Outcome State Fault Refusal :=
  runWrite 0x91 (.izy b1) (fun s => s.a) s

/-- 0x95 STA zero-page,X (R205). -/
def execStaZpx (b1 : Byte) (s : State) : Host.Outcome State Fault Refusal :=
  runWrite 0x95 (.zpx b1) (fun s => s.a) s

/-- 0x99 STA absolute,Y (R205). -/
def execStaAby (b1 b2 : Byte) (s : State) : Host.Outcome State Fault Refusal :=
  runWrite 0x99 (.aby b1 b2) (fun s => s.a) s

/-- 0x9D STA absolute,X (R205). -/
def execStaAbx (b1 b2 : Byte) (s : State) : Host.Outcome State Fault Refusal :=
  runWrite 0x9D (.abx b1 b2) (fun s => s.a) s

/-- 0x86 STX zero-page (R206). -/
def execStxZp (b1 : Byte) (s : State) : Host.Outcome State Fault Refusal :=
  runWrite 0x86 (.zp b1) (fun s => s.x) s

/-- 0x8E STX absolute (R206). -/
def execStxAbs (b1 b2 : Byte) (s : State) : Host.Outcome State Fault Refusal :=
  runWrite 0x8E (.abs b1 b2) (fun s => s.x) s

/-- 0x96 STX zero-page,Y (R206). -/
def execStxZpy (b1 : Byte) (s : State) : Host.Outcome State Fault Refusal :=
  runWrite 0x96 (.zpy b1) (fun s => s.x) s

/-- 0x84 STY zero-page (R207). -/
def execStyZp (b1 : Byte) (s : State) : Host.Outcome State Fault Refusal :=
  runWrite 0x84 (.zp b1) (fun s => s.y) s

/-- 0x8C STY absolute (R207). -/
def execStyAbs (b1 b2 : Byte) (s : State) : Host.Outcome State Fault Refusal :=
  runWrite 0x8C (.abs b1 b2) (fun s => s.y) s

/-- 0x94 STY zero-page,X (R207). -/
def execStyZpx (b1 : Byte) (s : State) : Host.Outcome State Fault Refusal :=
  runWrite 0x94 (.zpx b1) (fun s => s.y) s

/-! ### Register transfers (R208 to R213) -/

/-- TAX's action (R208). -/
def actTax (s : State) : State :=
  setNZ s.a { s with x := s.a }

/-- 0xAA TAX implied (R208). -/
def execTax (s : State) : Host.Outcome State Fault Refusal :=
  runInherent 0xAA actTax s

/-- TAY's action (R209). -/
def actTay (s : State) : State :=
  setNZ s.a { s with y := s.a }

/-- 0xA8 TAY implied (R209). -/
def execTay (s : State) : Host.Outcome State Fault Refusal :=
  runInherent 0xA8 actTay s

/-- TXA's action (R210). -/
def actTxa (s : State) : State :=
  setNZ s.x { s with a := s.x }

/-- 0x8A TXA implied (R210). -/
def execTxa (s : State) : Host.Outcome State Fault Refusal :=
  runInherent 0x8A actTxa s

/-- TYA's action (R211). -/
def actTya (s : State) : State :=
  setNZ s.y { s with a := s.y }

/-- 0x98 TYA implied (R211). -/
def execTya (s : State) : Host.Outcome State Fault Refusal :=
  runInherent 0x98 actTya s

/-- TSX's action (R212). -/
def actTsx (s : State) : State :=
  setNZ s.sp { s with x := s.sp }

/-- 0xBA TSX implied (R212). -/
def execTsx (s : State) : Host.Outcome State Fault Refusal :=
  runInherent 0xBA actTsx s

/-- TXS's action: no flag is written, and it is no push or pull (R213). -/
def actTxs (s : State) : State :=
  { s with sp := s.x }

/-- 0x9A TXS implied (R213). -/
def execTxs (s : State) : Host.Outcome State Fault Refusal :=
  runInherent 0x9A actTxs s

end Sys2Proof.Machine
end

