-- ==== Sys2Proof/Machine/Logical.lean ====
section
/-! DEFINITION. The logical, bit-test and shift instructions (spec/45_logical_shift.md R300 to R309). -/

namespace Sys2Proof.Machine

/-! ### Logical operations and bit test (R300 to R304) -/

/-- AND's action (R301). -/
def actAnd (m : Byte) (s : State) : State :=
  setNZ (s.a &&& m) { s with a := s.a &&& m }

/-- 0x21 AND indexed-indirect (zp,X) (R301). -/
def execAndIzx (b1 : Byte) (s : State) : Host.Outcome State Fault Refusal :=
  runRead 0x21 (.ea (.izx b1)) actAnd s

/-- 0x25 AND zero-page (R301). -/
def execAndZp (b1 : Byte) (s : State) : Host.Outcome State Fault Refusal :=
  runRead 0x25 (.ea (.zp b1)) actAnd s

/-- 0x29 AND immediate (R301). -/
def execAndImm (b1 : Byte) (s : State) : Host.Outcome State Fault Refusal :=
  runRead 0x29 (.imm b1) actAnd s

/-- 0x2D AND absolute (R301). -/
def execAndAbs (b1 b2 : Byte) (s : State) : Host.Outcome State Fault Refusal :=
  runRead 0x2D (.ea (.abs b1 b2)) actAnd s

/-- 0x31 AND indirect-indexed (zp),Y (R301). -/
def execAndIzy (b1 : Byte) (s : State) : Host.Outcome State Fault Refusal :=
  runRead 0x31 (.ea (.izy b1)) actAnd s

/-- 0x35 AND zero-page,X (R301). -/
def execAndZpx (b1 : Byte) (s : State) : Host.Outcome State Fault Refusal :=
  runRead 0x35 (.ea (.zpx b1)) actAnd s

/-- 0x39 AND absolute,Y (R301). -/
def execAndAby (b1 b2 : Byte) (s : State) : Host.Outcome State Fault Refusal :=
  runRead 0x39 (.ea (.aby b1 b2)) actAnd s

/-- 0x3D AND absolute,X (R301). -/
def execAndAbx (b1 b2 : Byte) (s : State) : Host.Outcome State Fault Refusal :=
  runRead 0x3D (.ea (.abx b1 b2)) actAnd s

/-- ORA's action (R302). -/
def actOra (m : Byte) (s : State) : State :=
  setNZ (s.a ||| m) { s with a := s.a ||| m }

/-- 0x01 ORA indexed-indirect (zp,X) (R302). -/
def execOraIzx (b1 : Byte) (s : State) : Host.Outcome State Fault Refusal :=
  runRead 0x01 (.ea (.izx b1)) actOra s

/-- 0x05 ORA zero-page (R302). -/
def execOraZp (b1 : Byte) (s : State) : Host.Outcome State Fault Refusal :=
  runRead 0x05 (.ea (.zp b1)) actOra s

/-- 0x09 ORA immediate (R302). -/
def execOraImm (b1 : Byte) (s : State) : Host.Outcome State Fault Refusal :=
  runRead 0x09 (.imm b1) actOra s

/-- 0x0D ORA absolute (R302). -/
def execOraAbs (b1 b2 : Byte) (s : State) : Host.Outcome State Fault Refusal :=
  runRead 0x0D (.ea (.abs b1 b2)) actOra s

/-- 0x11 ORA indirect-indexed (zp),Y (R302). -/
def execOraIzy (b1 : Byte) (s : State) : Host.Outcome State Fault Refusal :=
  runRead 0x11 (.ea (.izy b1)) actOra s

/-- 0x15 ORA zero-page,X (R302). -/
def execOraZpx (b1 : Byte) (s : State) : Host.Outcome State Fault Refusal :=
  runRead 0x15 (.ea (.zpx b1)) actOra s

/-- 0x19 ORA absolute,Y (R302). -/
def execOraAby (b1 b2 : Byte) (s : State) : Host.Outcome State Fault Refusal :=
  runRead 0x19 (.ea (.aby b1 b2)) actOra s

/-- 0x1D ORA absolute,X (R302). -/
def execOraAbx (b1 b2 : Byte) (s : State) : Host.Outcome State Fault Refusal :=
  runRead 0x1D (.ea (.abx b1 b2)) actOra s

/-- EOR's action (R303). -/
def actEor (m : Byte) (s : State) : State :=
  setNZ (s.a ^^^ m) { s with a := s.a ^^^ m }

/-- 0x41 EOR indexed-indirect (zp,X) (R303). -/
def execEorIzx (b1 : Byte) (s : State) : Host.Outcome State Fault Refusal :=
  runRead 0x41 (.ea (.izx b1)) actEor s

/-- 0x45 EOR zero-page (R303). -/
def execEorZp (b1 : Byte) (s : State) : Host.Outcome State Fault Refusal :=
  runRead 0x45 (.ea (.zp b1)) actEor s

/-- 0x49 EOR immediate (R303). -/
def execEorImm (b1 : Byte) (s : State) : Host.Outcome State Fault Refusal :=
  runRead 0x49 (.imm b1) actEor s

/-- 0x4D EOR absolute (R303). -/
def execEorAbs (b1 b2 : Byte) (s : State) : Host.Outcome State Fault Refusal :=
  runRead 0x4D (.ea (.abs b1 b2)) actEor s

/-- 0x51 EOR indirect-indexed (zp),Y (R303). -/
def execEorIzy (b1 : Byte) (s : State) : Host.Outcome State Fault Refusal :=
  runRead 0x51 (.ea (.izy b1)) actEor s

/-- 0x55 EOR zero-page,X (R303). -/
def execEorZpx (b1 : Byte) (s : State) : Host.Outcome State Fault Refusal :=
  runRead 0x55 (.ea (.zpx b1)) actEor s

/-- 0x59 EOR absolute,Y (R303). -/
def execEorAby (b1 b2 : Byte) (s : State) : Host.Outcome State Fault Refusal :=
  runRead 0x59 (.ea (.aby b1 b2)) actEor s

/-- 0x5D EOR absolute,X (R303). -/
def execEorAbx (b1 b2 : Byte) (s : State) : Host.Outcome State Fault Refusal :=
  runRead 0x5D (.ea (.abx b1 b2)) actEor s

/-- 0x24 BIT zero-page (R304). -/
def execBitZp (b1 : Byte) (s : State) : Host.Outcome State Fault Refusal :=
  runRead 0x24 (.ea (.zp b1)) bitTest s

/-- 0x2C BIT absolute (R304). -/
def execBitAbs (b1 b2 : Byte) (s : State) : Host.Outcome State Fault Refusal :=
  runRead 0x2C (.ea (.abs b1 b2)) bitTest s

/-! ### Shifts and rotates (R305 to R309) -/

/-- 0x06 ASL zero-page (R306). -/
def execAslZp (b1 : Byte) (s : State) : Host.Outcome State Fault Refusal :=
  runModify 0x06 (.zp b1) shiftAsl s

/-- 0x0A ASL accumulator (R306). -/
def execAslAcc (s : State) : Host.Outcome State Fault Refusal :=
  runAccumulator 0x0A shiftAsl s

/-- 0x0E ASL absolute (R306). -/
def execAslAbs (b1 b2 : Byte) (s : State) : Host.Outcome State Fault Refusal :=
  runModify 0x0E (.abs b1 b2) shiftAsl s

/-- 0x16 ASL zero-page,X (R306). -/
def execAslZpx (b1 : Byte) (s : State) : Host.Outcome State Fault Refusal :=
  runModify 0x16 (.zpx b1) shiftAsl s

/-- 0x1E ASL absolute,X (R306). -/
def execAslAbx (b1 b2 : Byte) (s : State) : Host.Outcome State Fault Refusal :=
  runModify 0x1E (.abx b1 b2) shiftAsl s

/-- 0x46 LSR zero-page (R307). -/
def execLsrZp (b1 : Byte) (s : State) : Host.Outcome State Fault Refusal :=
  runModify 0x46 (.zp b1) shiftLsr s

/-- 0x4A LSR accumulator (R307). -/
def execLsrAcc (s : State) : Host.Outcome State Fault Refusal :=
  runAccumulator 0x4A shiftLsr s

/-- 0x4E LSR absolute (R307). -/
def execLsrAbs (b1 b2 : Byte) (s : State) : Host.Outcome State Fault Refusal :=
  runModify 0x4E (.abs b1 b2) shiftLsr s

/-- 0x56 LSR zero-page,X (R307). -/
def execLsrZpx (b1 : Byte) (s : State) : Host.Outcome State Fault Refusal :=
  runModify 0x56 (.zpx b1) shiftLsr s

/-- 0x5E LSR absolute,X (R307). -/
def execLsrAbx (b1 b2 : Byte) (s : State) : Host.Outcome State Fault Refusal :=
  runModify 0x5E (.abx b1 b2) shiftLsr s

/-- 0x26 ROL zero-page (R308). -/
def execRolZp (b1 : Byte) (s : State) : Host.Outcome State Fault Refusal :=
  runModify 0x26 (.zp b1) shiftRol s

/-- 0x2A ROL accumulator (R308). -/
def execRolAcc (s : State) : Host.Outcome State Fault Refusal :=
  runAccumulator 0x2A shiftRol s

/-- 0x2E ROL absolute (R308). -/
def execRolAbs (b1 b2 : Byte) (s : State) : Host.Outcome State Fault Refusal :=
  runModify 0x2E (.abs b1 b2) shiftRol s

/-- 0x36 ROL zero-page,X (R308). -/
def execRolZpx (b1 : Byte) (s : State) : Host.Outcome State Fault Refusal :=
  runModify 0x36 (.zpx b1) shiftRol s

/-- 0x3E ROL absolute,X (R308). -/
def execRolAbx (b1 b2 : Byte) (s : State) : Host.Outcome State Fault Refusal :=
  runModify 0x3E (.abx b1 b2) shiftRol s

/-- 0x66 ROR zero-page (R309). -/
def execRorZp (b1 : Byte) (s : State) : Host.Outcome State Fault Refusal :=
  runModify 0x66 (.zp b1) shiftRor s

/-- 0x6A ROR accumulator (R309). -/
def execRorAcc (s : State) : Host.Outcome State Fault Refusal :=
  runAccumulator 0x6A shiftRor s

/-- 0x6E ROR absolute (R309). -/
def execRorAbs (b1 b2 : Byte) (s : State) : Host.Outcome State Fault Refusal :=
  runModify 0x6E (.abs b1 b2) shiftRor s

/-- 0x76 ROR zero-page,X (R309). -/
def execRorZpx (b1 : Byte) (s : State) : Host.Outcome State Fault Refusal :=
  runModify 0x76 (.zpx b1) shiftRor s

/-- 0x7E ROR absolute,X (R309). -/
def execRorAbx (b1 b2 : Byte) (s : State) : Host.Outcome State Fault Refusal :=
  runModify 0x7E (.abx b1 b2) shiftRor s

end Sys2Proof.Machine
end

