-- ==== Sys2Proof/Machine/Stack.lean ====
section
/-! DEFINITION. The stack instructions (spec/42_stack.md R230 to R234). -/

namespace Sys2Proof.Machine

/-- PHA's action (R231). -/
def actPha (w : Work) : Except Fault (Nat × Work) := do
  let w ← push w.st.a w
  pure (0, w)

/-- 0x48 PHA implied (R231). -/
def execPha (s : State) : Host.Outcome State Fault Refusal :=
  runPlain 0x48 [] actPha s

/-- PHP's action: the pushed byte has bits 5 and 4 set (R232). -/
def actPhp (w : Work) : Except Fault (Nat × Work) := do
  let w ← push (packP w.st.p true) w
  pure (0, w)

/-- 0x08 PHP implied (R232). -/
def execPhp (s : State) : Host.Outcome State Fault Refusal :=
  runPlain 0x08 [] actPhp s

/-- PLA's action (R233). -/
def actPla (w : Work) : Except Fault (Nat × Work) := do
  let (v, w) ← pull w
  pure (0, w.mapState fun s => setNZ v { s with a := v })

/-- 0x68 PLA implied (R233). -/
def execPla (s : State) : Host.Outcome State Fault Refusal :=
  runPlain 0x68 [] actPla s

/-- PLP's action: bits 5 and 4 of the pulled byte are ignored (R234). -/
def actPlp (w : Work) : Except Fault (Nat × Work) := do
  let (v, w) ← pull w
  pure (0, w.mapState fun s => { s with p := unpackP v s.p })

/-- 0x28 PLP implied (R234). -/
def execPlp (s : State) : Host.Outcome State Fault Refusal :=
  runPlain 0x28 [] actPlp s

end Sys2Proof.Machine
end

