-- ==== Sys2Proof/Machine/Fetch.lean ====
section
/-! DEFINITION. Fetching the next instruction (spec/40_engine.md R122, R123; spec/30_encoding.md R102), and placing an
instruction where the next step fetches it. -/

namespace Sys2Proof.Machine

/-- Fetches `n` bytes at consecutive addresses, modulo 65536, from `a` (R90, R122). -/
def fetchBytes : Nat → Word → Work → Except Fault (List Byte × Work)
  | 0, _, w => .ok ([], w)
  | n + 1, a, w => do
    let (b, w) ← memRead .fetch a w
    let (rest, w) ← fetchBytes n (a + 1) w
    pure (b :: rest, w)

/-- The opcode byte, the table lookup for the length, then the operand bytes (R122, R123): the instruction at PC, and
the state after the fetch, which differs only where a device answered. -/
def fetchInstr (s : State) : Except Fault (Instr × State) := do
  let (opcode, w) ← memRead .fetch s.pc (Work.start s [])
  let (operands, w) ← fetchBytes ((table opcode).length - 1) (s.pc + 1) w
  pure (instrOf opcode (operands.getD 0 0) (operands.getD 1 0), w.st)

/-- Stores bytes at consecutive addresses, modulo 65536, from `a`. -/
def placeBytes : List Byte → Word → State → State
  | [], _, s => s
  | b :: rest, a, s => placeBytes rest (a + 1) (s.poke a b)

/-- A one-address window of plain RAM. -/
def ramAt (a : Word) : Window := { first := a.toNat, last := a.toNat, onRead := .cell, onWrite := .cell }

/-- The windows under which an address reads as the byte stored there. -/
def exposeAt (windows : List Window) (a : Word) : List Window :=
  match windowAt windows a with
  | none => windows
  | some w => if w.onRead = .cell then windows else ramAt a :: windows

/-- The state with `bytes` stored at PC, on an engine that will fetch them at its next step: not halted, not faulted,
no interrupt pending, and the three addresses plain RAM (log entry 8). -/
def placeInstruction (bytes : List Byte) (s : State) : State :=
  let windows := exposeAt (exposeAt (exposeAt s.cfg.windows s.pc) (s.pc + 1)) (s.pc + 2)
  let s := { s with halted := false, haltInfo := none, faulted := none, nmiPending := false, irqPending := false
                    cfg := { s.cfg with windows := windows } }
  placeBytes bytes s.pc s

end Sys2Proof.Machine
end

