-- ==== Sys2Proof/Machine/Step.lean ====
section
/-! DEFINITION. One `step()` (spec/40_engine.md R121, R122, R130). -/

namespace Sys2Proof.Machine

/-- `ExecuteInstruction()` (R122): fetch the instruction at PC, then execute it. -/
def executeInstruction (s : State) : Host.Outcome State Fault Refusal :=
  match fetchInstr s with
  | .ok (i, s) => exec i s
  | .error f => .fault f

/-- `step()` (R121): the halt state, a pending NMI, a pending and unmasked IRQ, or the instruction at PC, in this
order. A CPU that has faulted takes no step (R62, log entry 7). -/
def step (s : State) : Host.Outcome State Fault Refusal :=
  match s.faulted with
  | some failure => .fault (.afterFault failure)
  | none =>
    if s.halted then .next (haltedStep s)
    else if s.nmiPending then serviceNMI s
    else if s.irqPending && !s.p.i then serviceIRQ s
    else executeInstruction s

/-- The state with the instruction of the table word `w` (`nbits` bits, zeros above) stored where the next step
fetches it, so that the next step runs exactly it. -/
def State.withFetchWord (s : State) (nbits w : Nat) : State := placeInstruction (tableBytes nbits w) s

end Sys2Proof.Machine
end

