-- ==== Sys2Proof/Machine/Interface.lean ====
section
/-! DEFINITION. The CPU's public operations other than `step()` (spec/40_engine.md R120, R133, R136, R137;
spec/20_memory.md R74; spec/60_exceptions.md R422, R423; spec/70_reset_and_hazards.md R520): what the host can do to
the CPU between steps. -/

namespace Sys2Proof.Machine

/-! ### Reset and the interrupt requests -/

/-- What `reset()` leaves of a state whose vector holds `target` (R520, R521): A, X, Y, the other flags, memory and
the Debugger keep their values. -/
def resetTo (target : Word) (s : State) : State :=
  { s with
    pc := target, p := { s.p with i := true }, sp := s.cfg.spReset, cycles := 0, instructions := 0
    halted := false, haltInfo := none, nmiPending := false, irqPending := false, stackWrapCount := 0
    lastStep := none, faulted := none }

/-- `reset()` (R520, R523): the vector reads come first, so a failing one writes nothing. It leaves the halt state
and, as "the only defined way on" (R438), the faulted one. -/
def resetCpu (s : State) : Except Fault State := do
  let (target, w) ← readWord resetVector (Work.start s [])
  pure (resetTo target w.st)

/-- `irq()` (R422). -/
def irq (s : State) : State := { s with irqPending := true }

/-- `nmi()` (R423). -/
def nmi (s : State) : State := { s with nmiPending := true }

/-! ### The flag, memory and stack accessors -/

/-- `setFlag(flagName, value)` (R137). -/
def setFlag (f : FlagName) (value : Bool) (s : State) : State := { s with p := s.p.set f value }

/-- `getFlag(flagName)` (R137). -/
def getFlag (f : FlagName) (s : State) : Bool := s.p.get f

/-- `read(address)` (R74): a direct call, in no bus log. A failure of it is reported with the kind `read`, which the spec
leaves open (DESIGN CHOICE, log entry 23). -/
def publicRead (a : Word) (s : State) : Except Fault (Byte × State) := do
  let (v, w) ← memRead .read a (Work.start s [])
  pure (v, w.st)

/-- `write(address, byte)` (R74). A failure of it is reported with the kind `write`, which the spec leaves open (DESIGN
CHOICE, log entry 23). -/
def publicWrite (a : Word) (v : Byte) (s : State) : Except Fault State := do
  let w ← memWrite .write a v (Work.start s [])
  pure w.st

/-- `pushByte(v)` (R136). -/
def pushByte (v : Byte) (s : State) : Except Fault State := do
  let w ← push v (Work.start s [])
  pure w.st

/-- `pullByte()` (R136). -/
def pullByte (s : State) : Except Fault (Byte × State) := do
  let (v, w) ← pull (Work.start s [])
  pure (v, w.st)

/-- `pushWord(w)` (R136). -/
def publicPushWord (v : Word) (s : State) : Except Fault State := do
  let w ← pushWord v (Work.start s [])
  pure w.st

/-- `pullWord()` (R136). -/
def publicPullWord (s : State) : Except Fault (Word × State) := do
  let (v, w) ← pullWord (Work.start s [])
  pure (v, w.st)

/-! ### execute -/

/-- The cycles the most recent step returned (R129). -/
def State.lastCycles (s : State) : Nat :=
  match s.lastStep with
  | some r => r.cycles
  | none => 0

/-- The loop of `execute` (R133), bounded by a number of steps. -/
def executeLoop (maxCycles : Nat) : Nat → Nat → State → Host.Outcome (Nat × State) Fault Refusal
  | 0, consumed, s => .next (consumed, s)
  | fuel + 1, consumed, s =>
    if consumed < maxCycles ∧ s.halted = false then
      match step s with
      | .next t => executeLoop maxCycles fuel (consumed + t.lastCycles) t
      | .fault f => .fault f
      | .refused r => .refused r
    else .next (consumed, s)

/-- `execute(maxCycles)` (R133): the consumed cycles and the state. It makes at most `maxCycles / 2 + 1` steps (R134),
which is the loop's bound (log entry 17). -/
def execute (maxCycles : Nat) (s : State) : Host.Outcome (Nat × State) Fault Refusal :=
  executeLoop maxCycles (maxCycles / 2 + 1) 0 s

end Sys2Proof.Machine
end

