-- ==== Sys2Proof/Machine/Text.lean ====
section
/-! DEFINITION. Hexadecimal text and the disassembly of a trace entry (spec/30_encoding.md R110, R111). -/

namespace Sys2Proof.Machine

/-- One upper-case hexadecimal digit. -/
def hexDigit (n : Nat) : Char :=
  ['0', '1', '2', '3', '4', '5', '6', '7', '8', '9', 'A', 'B', 'C', 'D', 'E', 'F'].getD n '?'

/-- A byte as two digits. -/
def hex2 (b : Byte) : String := String.ofList [hexDigit (b.toNat / 16), hexDigit (b.toNat % 16)]

/-- A word as four digits. -/
def hex4 (w : Word) : String := hex2 (hi8 w) ++ hex2 (lo8 w)

/-- The operand's spelling, none where the mode has no operand to show (R111). `address` is the instruction's. -/
def operandText (mode : Mode) (address : Word) (operands : List Byte) : Option String :=
  match mode, operands with
  | .acc, _ => some "A"
  | .imm, b1 :: _ => some ("#$" ++ hex2 b1)
  | .zp, b1 :: _ => some ("$" ++ hex2 b1)
  | .zpx, b1 :: _ => some ("$" ++ hex2 b1 ++ ",X")
  | .zpy, b1 :: _ => some ("$" ++ hex2 b1 ++ ",Y")
  | .abs, b1 :: b2 :: _ => some ("$" ++ hex4 (word b2 b1))
  | .abx, b1 :: b2 :: _ => some ("$" ++ hex4 (word b2 b1) ++ ",X")
  | .aby, b1 :: b2 :: _ => some ("$" ++ hex4 (word b2 b1) ++ ",Y")
  | .ind, b1 :: b2 :: _ => some ("($" ++ hex4 (word b2 b1) ++ ")")
  | .izx, b1 :: _ => some ("($" ++ hex2 b1 ++ ",X)")
  | .izy, b1 :: _ => some ("($" ++ hex2 b1 ++ "),Y")
  | .rel, b1 :: _ => some ("$" ++ hex4 (branchTarget (address + 2) b1))
  | _, _ => none

/-- The disassembly text (R110). -/
def disassembly (address : Word) (opcode : Byte) (operands : List Byte) : String :=
  let d := table opcode
  match operandText d.mode address operands with
  | some t => d.mnemonic.text ++ " " ++ t
  | none => d.mnemonic.text

end Sys2Proof.Machine
end

