-- ==== Sys2Proof/Machine/Debug.lean ====
section
/-! DEFINITION. The Debugger (spec/60_exceptions.md R450 to R474): the session, breakpoints, watchpoints, conditions,
the trace and the event queue. Every operation below changes the Debugger's state and nothing of the CPU's, but for
`setWatchpoint`'s one registration read (R464). -/

namespace Sys2Proof.Machine

/-! ### Finite maps keyed by an address, in ascending order -/

/-- Stores a record under its key, replacing any earlier one. -/
def putKey {α : Type} (key : α → Word) (x : α) : List α → List α
  | [] => [x]
  | y :: rest =>
    if (key y).toNat < (key x).toNat then y :: putKey key x rest
    else if key y = key x then x :: rest
    else x :: y :: rest

/-- Removes the record under a key. -/
def dropKey {α : Type} (key : α → Word) (a : Word) (l : List α) : List α := l.filter fun x => key x != a

/-- The record under a key. -/
def findKey {α : Type} (key : α → Word) (a : Word) (l : List α) : Option α := l.find? fun x => key x == a

/-! ### Conditions (R460 to R462) -/

/-- What a condition is evaluated on: the post-step registers and flags, and the record's hit count and last observed
value as they were before this check (R460). -/
structure View where
  regs : Regs
  p : Flags
  hitCount : Nat
  lastValue : Option Byte
  deriving DecidableEq, Repr

/-- A term's value, none where it has none. -/
def evalTerm (t : Term) (v : View) : Option Nat :=
  match t with
  | .a => some v.regs.a.toNat
  | .x => some v.regs.x.toNat
  | .y => some v.regs.y.toNat
  | .sp => some v.regs.sp.toNat
  | .pc => some v.regs.pc.toNat
  | .p => some (packP v.p v.p.b).toNat
  | .flag f => some (v.p.get f).toNat
  | .hitCount => some v.hitCount
  | .lastValue => v.lastValue.map BitVec.toNat
  | .const n => some n

/-- The comparison of two numbers. -/
def evalCmp (op : CmpOp) (l r : Nat) : Bool :=
  match op with
  | .eq => decide (l = r)
  | .ne => decide (l ≠ r)
  | .lt => decide (l < r)
  | .le => decide (l ≤ r)
  | .gt => decide (l > r)
  | .ge => decide (l ≥ r)

/-- `Eval(c, view)` (R460), none for an error. `And` and `Or` evaluate both operands. -/
def evalPred : Pred → View → Option Bool
  | .always, _ => some true
  | .never, _ => some false
  | .cmp op l r, v => do
    let l ← evalTerm l v
    let r ← evalTerm r v
    pure (evalCmp op l r)
  | .not q, v => (evalPred q v).map (!·)
  | .and l r, v => do
    let l ← evalPred l v
    let r ← evalPred r v
    pure (l && r)
  | .or l r, v => do
    let l ← evalPred l v
    let r ← evalPred r v
    pure (l || r)

/-- A record's condition: an absent one holds. -/
def evalCondition (c : Option Pred) (v : View) : Option Bool :=
  match c with
  | some q => evalPred q v
  | none => some true

/-- `ReportOnce(target, address)` (R462). -/
def reportOnce (target : Target) (address : Word) (d : Debugger) : Debugger :=
  if (target, address) ∈ d.reported then d
  else { d with reported := d.reported ++ [(target, address)], events := d.events ++ [.conditionError target address] }

/-- Takes the mark of a record off `reported` (R454, R456). -/
def unreport (target : Target) (address : Word) (d : Debugger) : Debugger :=
  { d with reported := d.reported.filter fun k => k != (target, address) }

/-! ### The session (R450) and the event queue (R453) -/

/-- `startDebugging()`. -/
def startDebugging (d : Debugger) : Debugger :=
  if d.active then d else { d with active := true, stepIndex := 0, reported := [] }

/-- `stopDebugging()`: the events are kept. -/
def stopDebugging (d : Debugger) : Debugger :=
  { d with active := false, breakpoints := [], watchpoints := [], reported := [], tracing := false, trace := [] }

/-- `pollEvents()`. -/
def pollEvents (d : Debugger) : List Event × Debugger := (d.events, { d with events := [] })

/-! ### Breakpoints (R454 to R458) -/

/-- Stores a breakpoint, dropping any earlier record's mark (R454). -/
def storeBreakpoint (b : Breakpoint) (d : Debugger) : Debugger :=
  unreport .breakpoint b.address { d with breakpoints := putKey Breakpoint.address b d.breakpoints }

/-- `setBreakpoint(address, condition?, name?)` (R454). -/
def setBreakpoint (address : Word) (condition : Option Pred) (name : Option String) (d : Debugger) : Debugger :=
  storeBreakpoint
    { address := address, enabled := true, condition := condition
      name := name.getD ("Breakpoint at $" ++ hex4 address), hitCount := 0, lastHit := none, temporary := false } d

/-- `setConditionalBreakpoint(address, condition, name?)` (R454). -/
def setConditionalBreakpoint (address : Word) (condition : Pred) (name : Option String) (d : Debugger) : Debugger :=
  setBreakpoint address (some condition) name d

/-- `setTemporaryBreakpoint(address, name?)` (R454). -/
def setTemporaryBreakpoint (address : Word) (name : Option String) (d : Debugger) : Debugger :=
  storeBreakpoint
    { address := address, enabled := true, condition := none
      name := name.getD ("Temporary breakpoint at $" ++ hex4 address), hitCount := 0, lastHit := none
      temporary := true } d

/-- `removeBreakpoint(address)` (R456): whether there was one. -/
def removeBreakpoint (address : Word) (d : Debugger) : Bool × Debugger :=
  ((findKey Breakpoint.address address d.breakpoints).isSome,
    unreport .breakpoint address { d with breakpoints := dropKey Breakpoint.address address d.breakpoints })

/-- `clearBreakpoints()` (R456): the marks of the removed records go with them (R462, log entry 11). -/
def clearBreakpoints (d : Debugger) : Debugger :=
  { d with breakpoints := [], reported := d.reported.filter fun k => k.1 != .breakpoint }

/-- `CheckBreakpoints(rec)` (R455), with `s` the CPU after the step. -/
def checkBreakpoints (s : State) (r : StepRecord) (d : Debugger) : Debugger :=
  if r.kind = .halted then d
  else
    match findKey Breakpoint.address s.pc d.breakpoints with
    | none => d
    | some b =>
      if b.enabled = false then d
      else
        match evalCondition b.condition ⟨s.regs, s.p, b.hitCount, none⟩ with
        | none => reportOnce .breakpoint s.pc d
        | some false => d
        | some true =>
          let hit := { b with hitCount := b.hitCount + 1, lastHit := some ⟨s.cycles, d.stepIndex⟩ }
          { d with
            breakpoints :=
              if b.temporary then dropKey Breakpoint.address s.pc d.breakpoints
              else putKey Breakpoint.address hit d.breakpoints
            events := d.events ++ [.breakpointHit s.pc b.name (b.hitCount + 1) s.cycles d.stepIndex] }

/-! ### Watchpoints (R463 to R466) -/

/-- Stores a watchpoint with the value its registration read gave (R463). -/
def storeWatchpoint (address : Word) (accessType : AccessType) (condition : Option Pred) (name : Option String)
    (value : Option Byte) (d : Debugger) : Debugger :=
  let w : Watchpoint :=
    { address := address, accessType := accessType, enabled := true, condition := condition
      name := name.getD ("Watchpoint at $" ++ hex4 address), hitCount := 0, lastValue := value }
  unreport .watchpoint address { d with watchpoints := putKey Watchpoint.address w d.watchpoints }

/-- `setWatchpoint(address, accessType = Both, condition?, name?)` (R463, R464). A registration read that fails is no
fault (log entry 19). -/
def setWatchpoint (address : Word) (accessType : AccessType := .both) (condition : Option Pred := none)
    (name : Option String := none) (s : State) : State :=
  let (value, s) := busRead address s
  { s with dbg := storeWatchpoint address accessType condition name value s.dbg }

/-- `removeWatchpoint(address)` (R463). -/
def removeWatchpoint (address : Word) (d : Debugger) : Bool × Debugger :=
  ((findKey Watchpoint.address address d.watchpoints).isSome,
    unreport .watchpoint address { d with watchpoints := dropKey Watchpoint.address address d.watchpoints })

/-- `clearWatchpoints()` (R463). -/
def clearWatchpoints (d : Debugger) : Debugger :=
  { d with watchpoints := [], reported := d.reported.filter fun k => k.1 != .watchpoint }

/-- Whether an access is a data read, a write, or neither: instruction fetches are not data reads (R465). -/
def accessDirection : AccessKind → Option Direction
  | .read => some .read
  | .stackRead => some .read
  | .vector => some .read
  | .write => some .write
  | .stackWrite => some .write
  | .fetch => none

/-- Whether a filter takes an access of a direction; `both` and `access` are the same filter (R465). -/
def AccessType.takes : AccessType → Direction → Bool
  | .read, d => d == .read
  | .write, d => d == .write
  | .both, _ => true
  | .access, _ => true

/-- The access-type filter (R465): the direction of a matching entry. A write matches only where it changes the last
observed value. -/
def watchMatch (w : Watchpoint) (e : BusEntry) : Option Direction :=
  match accessDirection e.kind with
  | some .read => if e.addr = w.address ∧ AccessType.takes w.accessType .read = true then some .read else none
  | some .write =>
    if e.addr = w.address ∧ AccessType.takes w.accessType .write = true ∧ w.lastValue ≠ some e.value then some .write
    else none
  | none => none

/-- The first entry of a bus log that matches, with its direction and value (R466). -/
def firstMatch (w : Watchpoint) : List BusEntry → Option (Direction × Byte)
  | [] => none
  | e :: rest =>
    match watchMatch w e with
    | some dir => some (dir, e.value)
    | none => firstMatch w rest

/-- One watchpoint's check (R466): the record after it, and the Debugger with what it reports. -/
def checkWatchpoint (s : State) (r : StepRecord) (w : Watchpoint) (d : Debugger) : Watchpoint × Debugger :=
  if w.enabled = false then (w, d)
  else
    match firstMatch w r.busLog with
    | none => (w, d)
    | some (dir, value) =>
      match evalCondition w.condition ⟨s.regs, s.p, w.hitCount, w.lastValue⟩ with
      | none => (w, reportOnce .watchpoint w.address d)
      | some false => (w, d)
      | some true =>
        ({ w with hitCount := w.hitCount + 1, lastValue := some value },
          { d with events := d.events ++ [.watchpointHit w.address w.name dir value (w.hitCount + 1)] })

/-- The checks of the watchpoints in ascending address order. -/
def checkWatchpointList (s : State) (r : StepRecord) : List Watchpoint → Debugger → List Watchpoint × Debugger
  | [], d => ([], d)
  | w :: rest, d =>
    let first := checkWatchpoint s r w d
    let others := checkWatchpointList s r rest first.2
    (first.1 :: others.1, others.2)

/-- `CheckWatchpoints(rec)` (R466). -/
def checkWatchpoints (s : State) (r : StepRecord) (d : Debugger) : Debugger :=
  let checked := checkWatchpointList s r d.watchpoints d
  { checked.2 with watchpoints := checked.1 }

/-! ### The trace (R470 to R474) -/

/-- `startTracing(maxEntries)` (R470). -/
def startTracing (maxEntries : Nat) (d : Debugger) : Debugger :=
  { d with tracing := true, traceCap := maxEntries, trace := [] }

/-- `stopTracing()` (R473): the entries collected, empty when tracing is off. -/
def stopTracing (d : Debugger) : List TraceEntry × Debugger :=
  (if d.tracing then d.trace else [], { d with tracing := false, trace := [] })

/-- The entry of a step record (R472), with `cycles` the CPU's counter after the step. -/
def traceEntry (cycles : Nat) (r : StepRecord) (opcode : Byte) : TraceEntry :=
  { address := r.addr, opcode := opcode, operands := r.operands, mnemonic := r.mnemonic
    text := disassembly r.addr opcode r.operands, regs := r.pre.regs, flags := r.pre.p, cycles := r.cycles
    timestamp := cycles - r.cycles }

/-- `TraceAppend(rec)` (R471): an executed instruction, while there is room. -/
def traceAppend (s : State) (r : StepRecord) (d : Debugger) : Debugger :=
  match r.opcode with
  | some opcode =>
    if d.tracing = true ∧ r.kind = .instruction ∧ d.trace.length < d.traceCap then
      { d with trace := d.trace ++ [traceEntry s.cycles r opcode] }
    else d
  | none => d

/-! ### Observation (R452) -/

/-- `observe(rec)` on the Debugger, with `s` the CPU after the step: trace, watchpoints, breakpoints and the step's
own notification, in this order. -/
def observeWith (s : State) (r : StepRecord) (d : Debugger) : Debugger :=
  if d.active then
    let d := { d with stepIndex := d.stepIndex + 1 }
    let d := traceAppend s r d
    let d := checkWatchpoints s r d
    let d := checkBreakpoints s r d
    { d with events := d.events ++ [.stepped d.stepIndex r.kind r.addr r.mnemonic r.cycles] }
  else d

/-- `observe(cpu.lastStep)`. -/
def observe (s : State) : State :=
  match s.lastStep with
  | some r => { s with dbg := observeWith s r s.dbg }
  | none => s

/-- `debugStep()` (R452): a step, then its observation; a fault is not observed. -/
def debugStep (s : State) : Host.Outcome State Fault Refusal :=
  match step s with
  | .next t => .next (observe t)
  | .fault f => .fault f
  | .refused r => .refused r

end Sys2Proof.Machine
end

