-- ==== Sys2Proof/Machine/Report.lean ====
section
/-! DEFINITION. What the Debugger computes on request (spec/60_exceptions.md R475 to R480): the performance profile,
the comprehensive snapshot and the memory dump. -/

namespace Sys2Proof.Machine

/-! ### The performance profile (R47, R475, R476) -/

/-- A profile of the trace. `mnemonicCounts` is a map, held in the order the mnemonics first appear (log entry 12). -/
structure Profile where
  totalInstructions : Nat
  totalCycles : Nat
  averageCycles : Rat
  mnemonicCounts : List (String × Nat)
  hotspots : List (Word × Nat)
  deriving DecidableEq, Repr

/-- Counts one more of a key. -/
def countKey {α : Type} [DecidableEq α] (k : α) : List (α × Nat) → List (α × Nat)
  | [] => [(k, 1)]
  | (x, n) :: rest => if x = k then (x, n + 1) :: rest else (x, n) :: countKey k rest

/-- How often each key occurs. -/
def countAll {α : Type} [DecidableEq α] (keys : List α) : List (α × Nat) := keys.foldl (fun m k => countKey k m) []

/-- Hit count descending, then address ascending (R475). -/
def hotter (l r : Word × Nat) : Bool := decide (l.2 > r.2) || (l.2 == r.2 && decide (l.1.toNat < r.1.toNat))

/-- Puts a pair into a list sorted by `hotter`. -/
def insertHot (x : Word × Nat) : List (Word × Nat) → List (Word × Nat)
  | [] => [x]
  | y :: rest => if hotter x y then x :: y :: rest else y :: insertHot x rest

/-- The pairs sorted by `hotter`. -/
def sortHot (l : List (Word × Nat)) : List (Word × Nat) := l.foldr insertHot []

/-- The sum of the entries' cycles. -/
def traceCycles (trace : List TraceEntry) : Nat := (trace.map TraceEntry.cycles).sum

/-- The exact average (R475): 0 where nothing was traced. -/
def averageOf (cycles instructions : Nat) : Rat :=
  if instructions = 0 then 0 else (cycles : Rat) / (instructions : Rat)

/-- `getPerformanceProfile()` on a trace (R475). -/
def profileOf (trace : List TraceEntry) : Profile :=
  { totalInstructions := trace.length
    totalCycles := traceCycles trace
    averageCycles := averageOf (traceCycles trace) trace.length
    mnemonicCounts := countAll (trace.map TraceEntry.mnemonic)
    hotspots := (sortHot (countAll (trace.map TraceEntry.address))).take 10 }

/-! ### The comprehensive snapshot (R478) -/

/-- What `getComprehensiveDebugInfo()` answers. -/
structure DebugInfo where
  registers : Regs
  flags : Flags
  unusedFlag : Bool
  status : Byte
  cycles : Nat
  instructions : Nat
  halted : Bool
  haltInfo : Option HaltInfo
  nmiPending : Bool
  irqPending : Bool
  lastMnemonic : Option String
  stackWrapCount : Nat
  active : Bool
  breakpoints : List Breakpoint
  watchpoints : List Watchpoint
  profile : Profile
  deriving DecidableEq, Repr

/-- The last step's mnemonic: none for no step and for a halted one (R478). -/
def lastMnemonic (s : State) : Option String :=
  match s.lastStep with
  | some r => if r.kind = .halted then none else some r.mnemonic
  | none => none

/-- `getComprehensiveDebugInfo()` (R478). -/
def comprehensiveInfo (s : State) : DebugInfo :=
  { registers := s.regs, flags := s.p, unusedFlag := s.p.get .u, status := packP s.p s.p.b
    cycles := s.cycles, instructions := s.instructions, halted := s.halted, haltInfo := s.haltInfo
    nmiPending := s.nmiPending, irqPending := s.irqPending, lastMnemonic := lastMnemonic s
    stackWrapCount := s.stackWrapCount, active := s.dbg.active, breakpoints := s.dbg.breakpoints
    watchpoints := s.dbg.watchpoints, profile := profileOf s.dbg.trace }

/-! ### The memory dump (R480) -/

/-- Reads `n` bytes at consecutive addresses, modulo 65536, from `a`: none for a read that failed. -/
def readCells : Nat → Word → State → List (Option Byte) × State
  | 0, _, s => ([], s)
  | n + 1, a, s =>
    let first := busRead a s
    let others := readCells n (a + 1) first.2
    (first.1 :: others.1, others.2)

/-- Texts joined by a separator. -/
def joinWith (sep : String) : List String → String
  | [] => ""
  | [t] => t
  | t :: rest => t ++ sep ++ joinWith sep rest

/-- The 16 positions of a row: none past its end. -/
def rowPositions (cells : List (Option Byte)) : List (Option (Option Byte)) :=
  cells.map some ++ List.replicate (16 - cells.length) none

/-- A position's cell. -/
def cellText : Option (Option Byte) → String
  | some (some b) => hex2 b
  | some none => "??"
  | none => "  "

/-- A position's character. -/
def cellChar : Option (Option Byte) → Char
  | some (some b) => if 0x20 ≤ b.toNat ∧ b.toNat ≤ 0x7E then Char.ofNat b.toNat else '.'
  | some none => '?'
  | none => ' '

/-- One line of the dump, with at most 16 cells. -/
def dumpLine (a : Word) (cells : List (Option Byte)) : String :=
  hex4 a ++ ": " ++ joinWith " " ((rowPositions cells).map cellText) ++ " |" ++
    String.ofList ((rowPositions cells).map cellChar) ++ "|"

/-- The lines of the dump, `rows` of them. -/
def dumpLines : Nat → Word → List (Option Byte) → List String
  | 0, _, _ => []
  | rows + 1, a, cells => dumpLine a (cells.take 16) :: dumpLines rows (a + 16) (cells.drop 16)

/-- `dumpMemory(start, length)` (R480). -/
def dumpMemory (start : Word) (length : Nat) (s : State) : String × State :=
  let cells := readCells length start s
  (joinWith "\n" (dumpLines ((length + 15) / 16) start cells.1), cells.2)

end Sys2Proof.Machine
end

