-- ==== Sys2Proof/Machine/Calls.lean ====
section
/-! DEFINITION. Every operation of the CPU and of the Debugger as one type of calls (spec/40_engine.md R120,
spec/60_exceptions.md sections 8 to 12): "the host (the driver) is the only caller and calls one operation at a time"
(spec/00_scope.md R8). -/

namespace Sys2Proof.Machine

/-- A call the host can make. -/
inductive HostCall where
  | reset
  | step
  | execute (maxCycles : Nat)
  | read (address : Word)
  | write (address : Word) (byte : Byte)
  | pushByte (v : Byte)
  | pullByte
  | pushWord (w : Word)
  | pullWord
  | setFlag (f : FlagName) (value : Bool)
  | getFlag (f : FlagName)
  | irq
  | nmi
  | debugStep
  | isDebuggingActive
  | startDebugging
  | stopDebugging
  | pollEvents
  | setBreakpoint (address : Word) (condition : Option Pred) (name : Option String)
  | setConditionalBreakpoint (address : Word) (condition : Pred) (name : Option String)
  | setTemporaryBreakpoint (address : Word) (name : Option String)
  | removeBreakpoint (address : Word)
  | clearBreakpoints
  | getBreakpoints
  | setWatchpoint (address : Word) (accessType : AccessType) (condition : Option Pred) (name : Option String)
  | removeWatchpoint (address : Word)
  | clearWatchpoints
  | getWatchpoints
  | startTracing (maxEntries : Nat)
  | stopTracing
  | getPerformanceProfile
  | getComprehensiveDebugInfo
  | dumpMemory (start : Word) (length : Nat)
  deriving DecidableEq, Repr

/-- What a call answers. -/
inductive Answer where
  | done
  | cycles (n : Nat)
  | byte (v : Byte)
  | word (w : Word)
  | bool (b : Bool)
  | text (t : String)
  | events (l : List Event)
  | breakpoints (l : List Breakpoint)
  | watchpoints (l : List Watchpoint)
  | trace (l : List TraceEntry)
  | profile (q : Profile)
  | info (q : DebugInfo)
  deriving DecidableEq, Repr

/-- The state with its Debugger changed. -/
def State.mapDbg (f : Debugger → Debugger) (s : State) : State := { s with dbg := f s.dbg }

/-- A call's outcome from an operation that may fault. -/
def answerOf {α : Type} (f : α → Answer × State) : Except Fault α → Host.Outcome (Answer × State) Fault Refusal
  | .ok x => .next (f x)
  | .error e => .fault e

/-- A step's outcome as a call's: the cycles it returned (R129). -/
def answerStep : Host.Outcome State Fault Refusal → Host.Outcome (Answer × State) Fault Refusal
  | .next t => .next (.cycles t.lastCycles, t)
  | .fault f => .fault f
  | .refused r => .refused r

/-- `execute`'s outcome as a call's. -/
def answerExecute : Host.Outcome (Nat × State) Fault Refusal → Host.Outcome (Answer × State) Fault Refusal
  | .next (n, t) => .next (.cycles n, t)
  | .fault f => .fault f
  | .refused r => .refused r

/-- One call. -/
def perform (c : HostCall) (s : State) : Host.Outcome (Answer × State) Fault Refusal :=
  match c with
  | .reset => answerOf (fun t => (.done, t)) (resetCpu s)
  | .step => answerStep (Machine.step s)
  | .execute n => answerExecute (Machine.execute n s)
  | .read a => answerOf (fun r => (.byte r.1, r.2)) (publicRead a s)
  | .write a v => answerOf (fun t => (.done, t)) (publicWrite a v s)
  | .pushByte v => answerOf (fun t => (.done, t)) (Machine.pushByte v s)
  | .pullByte => answerOf (fun r => (.byte r.1, r.2)) (Machine.pullByte s)
  | .pushWord w => answerOf (fun t => (.done, t)) (publicPushWord w s)
  | .pullWord => answerOf (fun r => (.word r.1, r.2)) (publicPullWord s)
  | .setFlag f b => .next (.done, Machine.setFlag f b s)
  | .getFlag f => .next (.bool (Machine.getFlag f s), s)
  | .irq => .next (.done, Machine.irq s)
  | .nmi => .next (.done, Machine.nmi s)
  | .debugStep => answerStep (Machine.debugStep s)
  | .isDebuggingActive => .next (.bool s.dbg.active, s)
  | .startDebugging => .next (.done, s.mapDbg Machine.startDebugging)
  | .stopDebugging => .next (.done, s.mapDbg Machine.stopDebugging)
  | .pollEvents => .next (.events s.dbg.events, s.mapDbg fun d => (Machine.pollEvents d).2)
  | .setBreakpoint a c n => .next (.done, s.mapDbg (Machine.setBreakpoint a c n))
  | .setConditionalBreakpoint a c n => .next (.done, s.mapDbg (Machine.setConditionalBreakpoint a c n))
  | .setTemporaryBreakpoint a n => .next (.done, s.mapDbg (Machine.setTemporaryBreakpoint a n))
  | .removeBreakpoint a =>
    .next (.bool (Machine.removeBreakpoint a s.dbg).1, s.mapDbg fun d => (Machine.removeBreakpoint a d).2)
  | .clearBreakpoints => .next (.done, s.mapDbg Machine.clearBreakpoints)
  | .getBreakpoints => .next (.breakpoints s.dbg.breakpoints, s)
  | .setWatchpoint a k c n => .next (.done, Machine.setWatchpoint a k c n s)
  | .removeWatchpoint a =>
    .next (.bool (Machine.removeWatchpoint a s.dbg).1, s.mapDbg fun d => (Machine.removeWatchpoint a d).2)
  | .clearWatchpoints => .next (.done, s.mapDbg Machine.clearWatchpoints)
  | .getWatchpoints => .next (.watchpoints s.dbg.watchpoints, s)
  | .startTracing n => .next (.done, s.mapDbg (Machine.startTracing n))
  | .stopTracing => .next (.trace (Machine.stopTracing s.dbg).1, s.mapDbg fun d => (Machine.stopTracing d).2)
  | .getPerformanceProfile => .next (.profile (profileOf s.dbg.trace), s)
  | .getComprehensiveDebugInfo => .next (.info (comprehensiveInfo s), s)
  | .dumpMemory a n => .next (.text (Machine.dumpMemory a n s).1, (Machine.dumpMemory a n s).2)

end Sys2Proof.Machine
end

