-- ==== Sys2Proof/Machine/Classes.lean ====
section
/-! DEFINITION. The instruction classes of spec/40_engine.md R154: what an instruction does (its operation) and how it
reaches its operand (its form). `shapeOf` sorts the constructors of Instr; `Shape.run` is one run per class, and
`exec i` is `(shapeOf i).run` (Laws/Exec.lean, exec_eq_run). Statements over a whole class are made with it. -/

namespace Sys2Proof.Machine

/-- The read class (R154). -/
inductive ReadOp where
  | lda | ldx | ldy | adc | sbc | cmp | cpx | cpy | and | ora | eor | bit
  deriving DecidableEq, Repr

/-- The register a write-class instruction stores (R154, R205 to R207). -/
inductive StoreReg where
  | a | x | y
  deriving DecidableEq, Repr

/-- The read-modify-write class (R154); the first four have an accumulator form too. -/
inductive ModifyOp where
  | asl | lsr | rol | ror | inc | dec
  deriving DecidableEq, Repr

/-- The instructions that make only their fetch and write only registers and flags. -/
inductive InherentOp where
  | tax | tay | txa | tya | tsx | txs | inx | iny | dex | dey | clc | sec | cld | sed | cli | sei | clv | nop
  deriving DecidableEq, Repr

/-- The conditional branches (R342 to R349). -/
inductive BranchOp where
  | bcc | bcs | beq | bne | bmi | bpl | bvc | bvs
  deriving DecidableEq, Repr

/-- An instruction as an operation and its operand. -/
inductive Shape where
  | read (op : ReadOp) (f : ReadForm)
  | write (r : StoreReg) (f : EaForm)
  | modify (op : ModifyOp) (f : EaForm)
  | accumulator (op : ModifyOp)
  | inherent (op : InherentOp)
  | branch (op : BranchOp) (b1 : Byte)
  | jmp (f : EaForm)
  | jsr (b1 b2 : Byte)
  | pha | php | pla | plp | rts | rti
  | brk (signature : Byte)
  | undefined (opcode : Byte)
  deriving DecidableEq, Repr

/-- What a read-class instruction does with its operand. -/
def readAction : ReadOp → Byte → State → State
  | .lda => actLda
  | .ldx => actLdx
  | .ldy => actLdy
  | .adc => actAdc
  | .sbc => actSbc
  | .cmp => actCmp
  | .cpx => actCpx
  | .cpy => actCpy
  | .and => actAnd
  | .ora => actOra
  | .eor => actEor
  | .bit => bitTest

/-- The byte a write-class instruction stores. -/
def storeValue : StoreReg → State → Byte
  | .a => fun s => s.a
  | .x => fun s => s.x
  | .y => fun s => s.y

/-- What a read-modify-write instruction makes of a byte. -/
def modifyAction : ModifyOp → Byte → State → Byte × State
  | .asl => shiftAsl
  | .lsr => shiftLsr
  | .rol => shiftRol
  | .ror => shiftRor
  | .inc => stepUp
  | .dec => stepDown

/-- What a register-only instruction does. -/
def inherentAction : InherentOp → State → State
  | .tax => actTax
  | .tay => actTay
  | .txa => actTxa
  | .tya => actTya
  | .tsx => actTsx
  | .txs => actTxs
  | .inx => actInx
  | .iny => actIny
  | .dex => actDex
  | .dey => actDey
  | .clc => actClc
  | .sec => actSec
  | .cld => actCld
  | .sed => actSed
  | .cli => actCli
  | .sei => actSei
  | .clv => actClv
  | .nop => actNop

/-- The condition of a branch. -/
def branchCondition : BranchOp → Flags → Bool
  | .bcc => fun p => !p.c
  | .bcs => fun p => p.c
  | .beq => fun p => p.z
  | .bne => fun p => !p.z
  | .bmi => fun p => p.n
  | .bpl => fun p => !p.n
  | .bvc => fun p => !p.v
  | .bvs => fun p => p.v

/-- The class, the operation and the operand form of an instruction. -/
def shapeOf : Instr → Shape
  | .ldaIzx b1 => .read .lda (.ea (.izx b1))
  | .ldaZp b1 => .read .lda (.ea (.zp b1))
  | .ldaImm b1 => .read .lda (.imm b1)
  | .ldaAbs b1 b2 => .read .lda (.ea (.abs b1 b2))
  | .ldaIzy b1 => .read .lda (.ea (.izy b1))
  | .ldaZpx b1 => .read .lda (.ea (.zpx b1))
  | .ldaAby b1 b2 => .read .lda (.ea (.aby b1 b2))
  | .ldaAbx b1 b2 => .read .lda (.ea (.abx b1 b2))
  | .ldxImm b1 => .read .ldx (.imm b1)
  | .ldxZp b1 => .read .ldx (.ea (.zp b1))
  | .ldxAbs b1 b2 => .read .ldx (.ea (.abs b1 b2))
  | .ldxZpy b1 => .read .ldx (.ea (.zpy b1))
  | .ldxAby b1 b2 => .read .ldx (.ea (.aby b1 b2))
  | .ldyImm b1 => .read .ldy (.imm b1)
  | .ldyZp b1 => .read .ldy (.ea (.zp b1))
  | .ldyAbs b1 b2 => .read .ldy (.ea (.abs b1 b2))
  | .ldyZpx b1 => .read .ldy (.ea (.zpx b1))
  | .ldyAbx b1 b2 => .read .ldy (.ea (.abx b1 b2))
  | .staIzx b1 => .write .a (.izx b1)
  | .staZp b1 => .write .a (.zp b1)
  | .staAbs b1 b2 => .write .a (.abs b1 b2)
  | .staIzy b1 => .write .a (.izy b1)
  | .staZpx b1 => .write .a (.zpx b1)
  | .staAby b1 b2 => .write .a (.aby b1 b2)
  | .staAbx b1 b2 => .write .a (.abx b1 b2)
  | .stxZp b1 => .write .x (.zp b1)
  | .stxAbs b1 b2 => .write .x (.abs b1 b2)
  | .stxZpy b1 => .write .x (.zpy b1)
  | .styZp b1 => .write .y (.zp b1)
  | .styAbs b1 b2 => .write .y (.abs b1 b2)
  | .styZpx b1 => .write .y (.zpx b1)
  | .tax => .inherent .tax
  | .tay => .inherent .tay
  | .txa => .inherent .txa
  | .tya => .inherent .tya
  | .tsx => .inherent .tsx
  | .txs => .inherent .txs
  | .pha => .pha
  | .php => .php
  | .pla => .pla
  | .plp => .plp
  | .adcIzx b1 => .read .adc (.ea (.izx b1))
  | .adcZp b1 => .read .adc (.ea (.zp b1))
  | .adcImm b1 => .read .adc (.imm b1)
  | .adcAbs b1 b2 => .read .adc (.ea (.abs b1 b2))
  | .adcIzy b1 => .read .adc (.ea (.izy b1))
  | .adcZpx b1 => .read .adc (.ea (.zpx b1))
  | .adcAby b1 b2 => .read .adc (.ea (.aby b1 b2))
  | .adcAbx b1 b2 => .read .adc (.ea (.abx b1 b2))
  | .sbcIzx b1 => .read .sbc (.ea (.izx b1))
  | .sbcZp b1 => .read .sbc (.ea (.zp b1))
  | .sbcImm b1 => .read .sbc (.imm b1)
  | .sbcAbs b1 b2 => .read .sbc (.ea (.abs b1 b2))
  | .sbcIzy b1 => .read .sbc (.ea (.izy b1))
  | .sbcZpx b1 => .read .sbc (.ea (.zpx b1))
  | .sbcAby b1 b2 => .read .sbc (.ea (.aby b1 b2))
  | .sbcAbx b1 b2 => .read .sbc (.ea (.abx b1 b2))
  | .cmpIzx b1 => .read .cmp (.ea (.izx b1))
  | .cmpZp b1 => .read .cmp (.ea (.zp b1))
  | .cmpImm b1 => .read .cmp (.imm b1)
  | .cmpAbs b1 b2 => .read .cmp (.ea (.abs b1 b2))
  | .cmpIzy b1 => .read .cmp (.ea (.izy b1))
  | .cmpZpx b1 => .read .cmp (.ea (.zpx b1))
  | .cmpAby b1 b2 => .read .cmp (.ea (.aby b1 b2))
  | .cmpAbx b1 b2 => .read .cmp (.ea (.abx b1 b2))
  | .cpxImm b1 => .read .cpx (.imm b1)
  | .cpxZp b1 => .read .cpx (.ea (.zp b1))
  | .cpxAbs b1 b2 => .read .cpx (.ea (.abs b1 b2))
  | .cpyImm b1 => .read .cpy (.imm b1)
  | .cpyZp b1 => .read .cpy (.ea (.zp b1))
  | .cpyAbs b1 b2 => .read .cpy (.ea (.abs b1 b2))
  | .incZp b1 => .modify .inc (.zp b1)
  | .incAbs b1 b2 => .modify .inc (.abs b1 b2)
  | .incZpx b1 => .modify .inc (.zpx b1)
  | .incAbx b1 b2 => .modify .inc (.abx b1 b2)
  | .decZp b1 => .modify .dec (.zp b1)
  | .decAbs b1 b2 => .modify .dec (.abs b1 b2)
  | .decZpx b1 => .modify .dec (.zpx b1)
  | .decAbx b1 b2 => .modify .dec (.abx b1 b2)
  | .inx => .inherent .inx
  | .iny => .inherent .iny
  | .dex => .inherent .dex
  | .dey => .inherent .dey
  | .andIzx b1 => .read .and (.ea (.izx b1))
  | .andZp b1 => .read .and (.ea (.zp b1))
  | .andImm b1 => .read .and (.imm b1)
  | .andAbs b1 b2 => .read .and (.ea (.abs b1 b2))
  | .andIzy b1 => .read .and (.ea (.izy b1))
  | .andZpx b1 => .read .and (.ea (.zpx b1))
  | .andAby b1 b2 => .read .and (.ea (.aby b1 b2))
  | .andAbx b1 b2 => .read .and (.ea (.abx b1 b2))
  | .oraIzx b1 => .read .ora (.ea (.izx b1))
  | .oraZp b1 => .read .ora (.ea (.zp b1))
  | .oraImm b1 => .read .ora (.imm b1)
  | .oraAbs b1 b2 => .read .ora (.ea (.abs b1 b2))
  | .oraIzy b1 => .read .ora (.ea (.izy b1))
  | .oraZpx b1 => .read .ora (.ea (.zpx b1))
  | .oraAby b1 b2 => .read .ora (.ea (.aby b1 b2))
  | .oraAbx b1 b2 => .read .ora (.ea (.abx b1 b2))
  | .eorIzx b1 => .read .eor (.ea (.izx b1))
  | .eorZp b1 => .read .eor (.ea (.zp b1))
  | .eorImm b1 => .read .eor (.imm b1)
  | .eorAbs b1 b2 => .read .eor (.ea (.abs b1 b2))
  | .eorIzy b1 => .read .eor (.ea (.izy b1))
  | .eorZpx b1 => .read .eor (.ea (.zpx b1))
  | .eorAby b1 b2 => .read .eor (.ea (.aby b1 b2))
  | .eorAbx b1 b2 => .read .eor (.ea (.abx b1 b2))
  | .bitZp b1 => .read .bit (.ea (.zp b1))
  | .bitAbs b1 b2 => .read .bit (.ea (.abs b1 b2))
  | .aslZp b1 => .modify .asl (.zp b1)
  | .aslAcc => .accumulator .asl
  | .aslAbs b1 b2 => .modify .asl (.abs b1 b2)
  | .aslZpx b1 => .modify .asl (.zpx b1)
  | .aslAbx b1 b2 => .modify .asl (.abx b1 b2)
  | .lsrZp b1 => .modify .lsr (.zp b1)
  | .lsrAcc => .accumulator .lsr
  | .lsrAbs b1 b2 => .modify .lsr (.abs b1 b2)
  | .lsrZpx b1 => .modify .lsr (.zpx b1)
  | .lsrAbx b1 b2 => .modify .lsr (.abx b1 b2)
  | .rolZp b1 => .modify .rol (.zp b1)
  | .rolAcc => .accumulator .rol
  | .rolAbs b1 b2 => .modify .rol (.abs b1 b2)
  | .rolZpx b1 => .modify .rol (.zpx b1)
  | .rolAbx b1 b2 => .modify .rol (.abx b1 b2)
  | .rorZp b1 => .modify .ror (.zp b1)
  | .rorAcc => .accumulator .ror
  | .rorAbs b1 b2 => .modify .ror (.abs b1 b2)
  | .rorZpx b1 => .modify .ror (.zpx b1)
  | .rorAbx b1 b2 => .modify .ror (.abx b1 b2)
  | .bcc b1 => .branch .bcc b1
  | .bcs b1 => .branch .bcs b1
  | .beq b1 => .branch .beq b1
  | .bne b1 => .branch .bne b1
  | .bmi b1 => .branch .bmi b1
  | .bpl b1 => .branch .bpl b1
  | .bvc b1 => .branch .bvc b1
  | .bvs b1 => .branch .bvs b1
  | .jmpAbs b1 b2 => .jmp (.abs b1 b2)
  | .jmpInd b1 b2 => .jmp (.ind b1 b2)
  | .jsr b1 b2 => .jsr b1 b2
  | .rts => .rts
  | .brk signature => .brk signature
  | .rti => .rti
  | .clc => .inherent .clc
  | .sec => .inherent .sec
  | .cld => .inherent .cld
  | .sed => .inherent .sed
  | .cli => .inherent .cli
  | .sei => .inherent .sei
  | .clv => .inherent .clv
  | .nop => .inherent .nop
  | .undefined opcode => .undefined opcode

/-- One run per class. -/
def Shape.run (opcode : Byte) : Shape → State → Host.Outcome State Fault Refusal
  | .read op f => runRead opcode f (readAction op)
  | .write r f => runWrite opcode f (storeValue r)
  | .modify op f => runModify opcode f (modifyAction op)
  | .accumulator op => runAccumulator opcode (modifyAction op)
  | .inherent op => runInherent opcode (inherentAction op)
  | .branch op b1 => runBranch opcode b1 (branchCondition op)
  | .jmp f => runEa opcode f actJmp
  | .jsr b1 b2 => runEa opcode (.abs b1 b2) actJsr
  | .pha => runPlain opcode [] actPha
  | .php => runPlain opcode [] actPhp
  | .pla => runPlain opcode [] actPla
  | .plp => runPlain opcode [] actPlp
  | .rts => runPlain opcode [] actRts
  | .rti => runPlain opcode [] actRti
  | .brk signature => runPlain opcode [signature] actBrk
  | .undefined opcode => execUndefined opcode

end Sys2Proof.Machine
end

