-- ==== Sys2Proof/Safety.lean ====
section
/-! DEFINITION. The terms claims are made in: what memory a claim assumes, the invariant of the machine, what an
executed instruction leaves alone, and the operand an instruction reaches. -/

namespace Sys2Proof.Machine

/-! ### The memory behind the bus -/

/-- No call of the MemoryInterface signals a failure (spec/20_memory.md R62), whatever calls were made before it. -/
structure NeverFails (c : Config) : Prop where
  read : ∀ a, readAnswerOf c a ≠ .fails
  write : ∀ a, writeAnswerOf c a ≠ .fails
  readAnswered : ∀ a, readAnswerOf c a = .external → ∀ calls, Config.callFails c.collaborator calls (.read a) = false
  writeAccepted : ∀ a, writeAnswerOf c a = .external → ∀ calls v,
    Config.callFails c.collaborator calls (.write a v) = false

/-- The MemoryInterface failed a read of `a`, with `calls` the calls its collaborator has seen since, this one first. -/
def ReadFailed (c : Config) (a : Word) (calls : List BusCall) : Prop :=
  readAnswerOf c a = .fails ∨
  readAnswerOf c a = .external ∧ ∃ earlier, calls = .read a :: earlier ∧
    Config.callFails c.collaborator earlier (.read a) = true

/-- The MemoryInterface failed a write to `a`, with `calls` the calls its collaborator has seen since, this one first. -/
def WriteFailed (c : Config) (a : Word) (calls : List BusCall) : Prop :=
  writeAnswerOf c a = .fails ∨
  writeAnswerOf c a = .external ∧ ∃ earlier v, calls = .write a v :: earlier ∧
    Config.callFails c.collaborator earlier (.write a v) = true

/-- The MemoryInterface failed the call a bus fault names: a write for the two writing kinds, a read for the others
(spec/40_engine.md R128). -/
def CallFailed (c : Config) (kind : AccessKind) (a : Word) (calls : List BusCall) : Prop :=
  match kind with
  | .fetch => ReadFailed c a calls
  | .read => ReadFailed c a calls
  | .stackRead => ReadFailed c a calls
  | .vector => ReadFailed c a calls
  | .write => WriteFailed c a calls
  | .stackWrite => WriteFailed c a calls

/-- The whole address space is plain RAM, the reference instance of R83. -/
def IsReferenceRam (c : Config) : Prop := ∀ a, readAnswerOf c a = .cell ∧ writeAnswerOf c a = .cell

/-- The stack page is plain RAM; nothing is said of the rest of the address space. -/
def StackIsRam (c : Config) : Prop :=
  ∀ sp, readAnswerOf c (stackAddr sp) = .cell ∧ writeAnswerOf c (stackAddr sp) = .cell

/-- Both bytes of a vector read as stored, from RAM or from ROM. -/
def VectorReadable (c : Config) (vector : Word) : Prop :=
  readAnswerOf c vector = .cell ∧ readAnswerOf c (vector + 1) = .cell

/-- The 16-bit value stored at a vector, little-endian (R63, R70). -/
def vectorTarget (s : State) (vector : Word) : Word := word (s.peek (vector + 1)) (s.peek vector)

/-- The byte an address holds after `v` is written to `ea`, where that address stores what is written to it. -/
def afterStore (s : State) (ea : Word) (v : Byte) (a : Word) : Byte :=
  if a = ea ∧ writeAnswerOf s.cfg ea = .cell then v else s.peek a

/-- The bytes of memory after an interrupt entry's three pushes (R431). -/
def afterEntry (s : State) (pc : Word) (status : Byte) (a : Word) : Byte :=
  if a = stackAddr (s.sp - 2) then status
  else if a = stackAddr (s.sp - 1) then lo8 pc
  else if a = stackAddr s.sp then hi8 pc
  else s.peek a

/-- The stores a bus log lists, made in order. -/
def applyLog (mem : List Host.Cell) (log : List BusEntry) : List Host.Cell :=
  log.foldl (fun m e =>
    match e.kind with
    | .write => Memory.write m e.addr.toNat e.value
    | .stackWrite => Memory.write m e.addr.toNat e.value
    | _ => m) mem

/-! ### The invariant -/

/-- Addresses strictly rising. -/
def Ascending (l : List Word) : Prop := l.Pairwise fun a b => a.toNat < b.toNat

/-- What every operation keeps. -/
structure Inv (s : State) : Prop where
  /-- Memory is in its canonical form. -/
  memory : Memory.wf s.mem
  /-- The halt state and its report come and go together (spec/10_state.md R36). -/
  haltReported : s.halted = s.haltInfo.isSome
  /-- The report names an undefined opcode, and PC stays on it (spec/48_illegal.md R401). -/
  haltNames : ∀ h, s.haltInfo = some h → h.opcode ∈ undefinedOpcodes ∧ h.addr = s.pc
  /-- The last step made at most seven bus calls (spec/40_engine.md R127, R128). -/
  logBounded : ∀ r, s.lastStep = some r → r.busLog.length ≤ 7
  /-- `length trace <= traceCap` (R46). -/
  traceBounded : s.dbg.trace.length ≤ s.dbg.traceCap
  /-- At most one breakpoint per address, in ascending order (R44, R456). -/
  breakpointsAscend : Ascending (s.dbg.breakpoints.map Breakpoint.address)
  /-- At most one watchpoint per address, in ascending order (R45, R463). -/
  watchpointsAscend : Ascending (s.dbg.watchpoints.map Watchpoint.address)
  /-- `reported` is a set (R43). -/
  reportedOnce : s.dbg.reported.Nodup

/-! ### What an executed instruction leaves -/

/-- The state no documented instruction writes: the latches, the halt state, the configuration, the Debugger, the
fault mark. -/
structure SystemKept (s t : State) : Prop where
  nmiPending : t.nmiPending = s.nmiPending
  irqPending : t.irqPending = s.irqPending
  halted : t.halted = s.halted
  haltInfo : t.haltInfo = s.haltInfo
  cfg : t.cfg = s.cfg
  dbg : t.dbg = s.dbg
  faulted : t.faulted = s.faulted

/-- Every byte of memory reads as before. -/
def MemoryKept (s t : State) : Prop := ∀ a, t.peek a = s.peek a

/-- The stack pointer and the wrap counter are unchanged. -/
def StackKept (s t : State) : Prop := t.sp = s.sp ∧ t.stackWrapCount = s.stackWrapCount

/-- A, X and Y are unchanged. -/
def IndexAndAccumulatorKept (s t : State) : Prop := t.a = s.a ∧ t.x = s.x ∧ t.y = s.y

/-- The step cost the table's cycles and `extra` more, and counted as one instruction (R131, R160). -/
structure Retired (i : Instr) (extra : Nat) (s t : State) : Prop where
  cycles : t.cycles = s.cycles + ((table i.opcode).baseCycles + extra)
  returned : t.lastCycles = (table i.opcode).baseCycles + extra
  instructions : t.instructions = s.instructions + 1

/-- The address of the next instruction in sequence (R124). -/
def nextPc (i : Instr) (s : State) : Word := pcAfter s.pc (table i.opcode).length

/-- The step retired, fell through to the next instruction and left the system state alone. -/
structure FallsThrough (i : Instr) (extra : Nat) (s t : State) : Prop where
  retired : Retired i extra s t
  pc : t.pc = nextPc i s
  system : SystemKept s t

/-- The page penalty (R161). -/
def pageExtra (i : Instr) (crossed : Bool) : Nat :=
  if (table i.opcode).penalty = .page ∧ crossed = true then 1 else 0

/-! ### The operand an instruction reaches -/

/-- The work of executing `i` once its bytes are fetched. -/
def begun (i : Instr) (s : State) : Work := Work.start s (fetchLog s.pc (encode i))

/-- The same with PC advanced past the instruction. -/
def advanced (i : Instr) (s : State) (w : Work) : Work := w.advance s.pc (table i.opcode).length

/-- The operand byte of a read-class instruction (R153), whether a page was crossed, and the work after the read. -/
def operandOf (i : Instr) (f : ReadForm) (s : State) : Except Fault (Byte × Bool × Work) :=
  match f with
  | .imm b1 => .ok (b1, false, advanced i s (begun i s))
  | .ea f => do
    let (ea, crossed, w) ← resolve f (begun i s)
    let (v, w) ← memRead .read ea (advanced i s w)
    pure (v, crossed, w)

/-- The status flags with N and Z from a result (R200). -/
def withNZ (p : Flags) (v : Byte) : Flags := { p with n := v.getLsbD 7, z := v == 0 }

/-! ### Decimal digits -/

/-- Both nibbles are decimal digits. -/
def isBcd (b : Byte) : Bool := decide (b.toNat % 16 ≤ 9) && decide (b.toNat / 16 ≤ 9)

/-- The number two decimal digits stand for. -/
def bcdValue (b : Byte) : Nat := b.toNat / 16 * 10 + b.toNat % 16

end Sys2Proof.Machine
end

