-- ==== Sys2Proof/Certificates/Slice0/Obligations.lean ====
section
/-! DEFINITION. The statements about the model, for the provers. A statement about an instruction is made for every
form of it, through its class (Machine/Classes.lean, shapeOf); where it needs memory to answer, it says which calls
must succeed, and nothing else of memory. -/

open Sys2Proof Sys2Proof.Machine

/-! ### Encoding -/

/-- Every well-formed instruction, with every operand, is read back from its encoding, whatever follows it. -/
def Obligations.DecodingAnEncodingGivesTheInstruction : Prop :=
  ∀ (i : Instr) (rest : List Byte), WellFormed i → decode (encode i ++ rest) = .ok (i, rest)

/-- An instruction the decoder reads is well formed and encodes to the very bytes it was read from, BRK's signature
byte among them. -/
def Obligations.EncodingADecodingGivesTheBytes : Prop :=
  ∀ (bytes rest : List Byte) (i : Instr), decode bytes = .ok (i, rest) → WellFormed i ∧ encode i ++ rest = bytes

/-- R100: a decoder is total on bytes. With the bytes of the longest instruction present, every opcode byte decodes,
to the instruction that has it as its opcode, and its length is the table's. -/
def Obligations.EveryOpcodeByteDecodes : Prop :=
  ∀ (opcode b1 b2 : Byte) (rest : List Byte), ∃ i tail,
    decode (opcode :: b1 :: b2 :: rest) = .ok (i, tail) ∧ i.opcode = opcode ∧
    (encode i).length = (table opcode).length ∧ ((table opcode).isDefined = false ↔ i = .undefined opcode)

/-- Words written out from the map of R95 and the formats of R91 decode to the instructions they stand for. -/
def Obligations.SampleBytesDecode : Prop :=
  decode [0xA9, 0x41] = .ok (.ldaImm 0x41, []) ∧
  decode [0xBD, 0xF0, 0x12] = .ok (.ldaAbx 0xF0 0x12, []) ∧
  decode [0x91, 0x20, 0xEA] = .ok (.staIzy 0x20, [0xEA]) ∧
  decode [0x6C, 0xFF, 0x10] = .ok (.jmpInd 0xFF 0x10, []) ∧
  decode [0x00, 0xEA] = .ok (.brk 0xEA, []) ∧
  decode [0xD0, 0xFE] = .ok (.bne 0xFE, []) ∧
  decode [0x6A] = .ok (.rorAcc, []) ∧
  decode [0x02] = .ok (.undefined 0x02, []) ∧
  decode [0x20, 0x00] = .error (.truncated 0x20)

/-! ### One step -/

/-- A step runs the decoded instruction: with no fault, halt or serviceable request, and the three bytes at PC plain
memory, a step is `exec` of what they decode to. The step adds nothing around `exec`, which itself moves PC past the
instruction. -/
def Obligations.StepRunsTheInstructionAtPc : Prop :=
  ∀ (s : State) (i : Instr) (rest : List Byte),
    s.faulted = none → s.halted = false → s.nmiPending = false → (s.irqPending = false ∨ s.p.i = true) →
    readAnswerOf s.cfg s.pc = .cell → readAnswerOf s.cfg (s.pc + 1) = .cell →
    readAnswerOf s.cfg (s.pc + 2) = .cell →
    decode [s.peek s.pc, s.peek (s.pc + 1), s.peek (s.pc + 2)] = .ok (i, rest) →
    step s = exec i s

/-- On any memory: where the fetch succeeds, the step is `exec` of a well-formed instruction at a state that differs
from the one before only in the reads its collaborator has seen, the model's own field (log entry 6). -/
def Obligations.FetchChangesNothingButDeviceReads : Prop :=
  ∀ (s t : State) (i : Instr),
    s.faulted = none → s.halted = false → s.nmiPending = false → (s.irqPending = false ∨ s.p.i = true) →
    fetchInstr s = .ok (i, t) → WellFormed i ∧ t = { s with calls := t.calls } ∧ step s = exec i t

/-- R130: a halted step writes its record and nothing else, and returns 0. -/
def Obligations.HaltedStepWritesOnlyItsRecord : Prop :=
  ∀ s : State, s.faulted = none → s.halted = true → ∃ r,
    step s = .next { s with lastStep := some r } ∧
    r.kind = .halted ∧ r.addr = s.pc ∧ r.cycles = 0 ∧ r.busLog = []

/-- R427, R428: NMI service, whatever I is and whatever else is pending: PC and the status byte with bit 4 clear are
pushed, I is set and no other flag, PC comes from 0xFFFA, the step costs 7 cycles, is no instruction and leaves the
record and the bus log of the rule. -/
def Obligations.NmiServiceTakesTheEntry : Prop :=
  ∀ s : State, s.faulted = none → s.halted = false → s.nmiPending = true →
    StackIsRam s.cfg → VectorReadable s.cfg 0xFFFA → ∃ t r,
    step s = .next t ∧ t.pc = vectorTarget s 0xFFFA ∧ t.sp = s.sp - 3 ∧
    (∀ a, t.peek a = afterEntry s s.pc (packP s.p false) a) ∧
    t.p = { s.p with i := true } ∧ IndexAndAccumulatorKept s t ∧ t.cycles = s.cycles + 7 ∧
    t.instructions = s.instructions ∧ t.nmiPending = false ∧ t.irqPending = s.irqPending ∧
    t.halted = s.halted ∧ t.haltInfo = s.haltInfo ∧ t.cfg = s.cfg ∧ t.dbg = s.dbg ∧
    t.stackWrapCount = s.stackWrapCount + (if s.sp.toNat < 3 then 1 else 0) ∧
    t.lastStep = some r ∧ r.kind = .nmi ∧ r.addr = s.pc ∧ r.opcode = none ∧ r.operands = [] ∧
    r.mnemonic = "NMI" ∧ r.cycles = 7 ∧ r.pre = s.snapshot ∧ r.wrapped = decide (s.sp.toNat < 3) ∧
    r.busLog = [⟨.stackWrite, stackAddr s.sp, hi8 s.pc⟩, ⟨.stackWrite, stackAddr (s.sp - 1), lo8 s.pc⟩,
      ⟨.stackWrite, stackAddr (s.sp - 2), packP s.p false⟩, ⟨.vector, 0xFFFA, s.peek 0xFFFA⟩,
      ⟨.vector, 0xFFFA + 1, s.peek (0xFFFA + 1)⟩]

/-- R427, R429: IRQ service, with no NMI pending and I clear: the same entry through 0xFFFE. -/
def Obligations.IrqServiceTakesTheEntry : Prop :=
  ∀ s : State, s.faulted = none → s.halted = false → s.nmiPending = false → s.irqPending = true → s.p.i = false →
    StackIsRam s.cfg → VectorReadable s.cfg 0xFFFE → ∃ t r,
    step s = .next t ∧ t.pc = vectorTarget s 0xFFFE ∧ t.sp = s.sp - 3 ∧
    (∀ a, t.peek a = afterEntry s s.pc (packP s.p false) a) ∧
    t.p = { s.p with i := true } ∧ IndexAndAccumulatorKept s t ∧ t.cycles = s.cycles + 7 ∧
    t.instructions = s.instructions ∧ t.irqPending = false ∧ t.nmiPending = false ∧
    t.halted = s.halted ∧ t.haltInfo = s.haltInfo ∧ t.cfg = s.cfg ∧ t.dbg = s.dbg ∧
    t.stackWrapCount = s.stackWrapCount + (if s.sp.toNat < 3 then 1 else 0) ∧
    t.lastStep = some r ∧ r.kind = .irq ∧ r.addr = s.pc ∧ r.opcode = none ∧ r.operands = [] ∧
    r.mnemonic = "IRQ" ∧ r.cycles = 7 ∧ r.pre = s.snapshot ∧ r.wrapped = decide (s.sp.toNat < 3) ∧
    r.busLog = [⟨.stackWrite, stackAddr s.sp, hi8 s.pc⟩, ⟨.stackWrite, stackAddr (s.sp - 1), lo8 s.pc⟩,
      ⟨.stackWrite, stackAddr (s.sp - 2), packP s.p false⟩, ⟨.vector, 0xFFFE, s.peek 0xFFFE⟩,
      ⟨.vector, 0xFFFE + 1, s.peek (0xFFFE + 1)⟩]

/-- R426: while I is 1 the request is held, not lost: the step executes the instruction at PC and the request is
still pending after it. -/
def Obligations.MaskedIrqIsHeld : Prop :=
  ∀ s t : State, s.faulted = none → s.halted = false → s.nmiPending = false → s.irqPending = true → s.p.i = true →
    step s = .next t → executeInstruction s = .next t ∧ t.irqPending = true

/-! ### Reset -/

/-- R520, R521: what `reset()` writes, and what it leaves, of any state whatever its registers were, on any memory that
answers the two vector reads with `lo` and then `hi`. -/
def Obligations.ResetWritesWhatTheRuleLists : Prop :=
  ∀ (s u v : State) (lo hi : Byte), busRead 0xFFFC s = (some lo, u) → busRead 0xFFFD u = (some hi, v) →
    ∃ t, resetCpu s = .ok t ∧
    t.pc.toNat = hi.toNat * 256 + lo.toNat ∧ t.p = { s.p with i := true } ∧ t.sp = s.cfg.spReset ∧
    t.cycles = 0 ∧ t.instructions = 0 ∧ t.halted = false ∧ t.haltInfo = none ∧ t.nmiPending = false ∧
    t.irqPending = false ∧ t.stackWrapCount = 0 ∧ t.lastStep = none ∧
    IndexAndAccumulatorKept s t ∧ t.mem = s.mem ∧ t.cfg = s.cfg ∧ t.dbg = s.dbg

/-- R522: where two resets in a row succeed and the vector reads answer the same, the second leaves the same state, but
for the list of calls, a field that is the model's own (log entry 6); where the vector reads as stored, it leaves the
same state whole. That the second succeeds wherever no window of the vector is `external` rests on the model's choice
of windows (log entry 5). -/
def Obligations.ResetTwiceIsResetOnce : Prop :=
  ∀ s t : State, resetCpu s = .ok t →
    (∀ u, resetCpu t = .ok u → u.pc = t.pc → u = { t with calls := u.calls }) ∧
    (readAnswerOf s.cfg 0xFFFC ≠ .external → readAnswerOf s.cfg 0xFFFD ≠ .external → ∃ u, resetCpu t = .ok u) ∧
    (VectorReadable s.cfg 0xFFFC → resetCpu t = .ok t)

/-- R523: a bus failure on either vector read ends `reset()` with that fault, before any state is written. The mark of
a faulted CPU is the model's own (log entry 7), and so is the list of calls (log entry 6). -/
def Obligations.FailingVectorReadEndsReset : Prop :=
  ∀ s u : State,
    (busRead 0xFFFC s = (none, u) →
      resetCpu s = .error (.busFault .vector 0xFFFC
        { s with calls := u.calls, faulted := some ⟨.vector, 0xFFFC⟩ })) ∧
    (∀ (lo : Byte) (v : State), busRead 0xFFFC s = (some lo, u) → busRead 0xFFFD u = (none, v) →
      resetCpu s = .error (.busFault .vector 0xFFFD
        { s with calls := v.calls, faulted := some ⟨.vector, 0xFFFD⟩ }))

/-! ### Effective addresses -/

/-- R142 to R148: the addresses of the direct and indexed forms as numbers, with their wraps, and the page crossing. -/
def Obligations.DirectAndIndexedAddresses : Prop :=
  ∀ (b1 b2 : Byte) (w : Work), ∃ ax ay : Word,
    resolve (.zp b1) w = .ok (BitVec.ofNat 16 b1.toNat, false, w) ∧
    resolve (.zpx b1) w = .ok (BitVec.ofNat 16 ((b1.toNat + w.st.x.toNat) % 256), false, w) ∧
    resolve (.zpy b1) w = .ok (BitVec.ofNat 16 ((b1.toNat + w.st.y.toNat) % 256), false, w) ∧
    resolve (.abs b1 b2) w = .ok (BitVec.ofNat 16 (b2.toNat * 256 + b1.toNat), false, w) ∧
    ax.toNat = (b2.toNat * 256 + b1.toNat + w.st.x.toNat) % 65536 ∧
    resolve (.abx b1 b2) w = .ok (ax, decide (ax.toNat / 256 ≠ b2.toNat), w) ∧
    ay.toNat = (b2.toNat * 256 + b1.toNat + w.st.y.toNat) % 65536 ∧
    resolve (.aby b1 b2) w = .ok (ay, decide (ay.toNat / 256 ≠ b2.toNat), w)

/-- R149 to R151: the pointer forms, on any memory that answers the two pointer reads: which addresses are read, in
which order, and the address they give. -/
def Obligations.PointerAddresses : Prop :=
  ∀ (b1 b2 lo hi : Byte) (w u v : Work) (lowAt highAt : Word),
    memRead .read lowAt w = .ok (lo, u) → memRead .read highAt u = .ok (hi, v) →
    let base : Nat := hi.toNat * 256 + lo.toNat
    (lowAt.toNat = b2.toNat * 256 + b1.toNat → highAt.toNat = b2.toNat * 256 + (b1.toNat + 1) % 256 →
      resolve (.ind b1 b2) w = .ok (BitVec.ofNat 16 base, false, v)) ∧
    (lowAt.toNat = (b1.toNat + w.st.x.toNat) % 256 → highAt.toNat = (b1.toNat + w.st.x.toNat + 1) % 256 →
      resolve (.izx b1) w = .ok (BitVec.ofNat 16 base, false, v)) ∧
    (lowAt.toNat = b1.toNat → highAt.toNat = (b1.toNat + 1) % 256 → ∃ ea : Word,
      ea.toNat = (base + w.st.y.toNat) % 65536 ∧
      resolve (.izy b1) w = .ok (ea, decide (ea.toNat / 256 ≠ base / 256), v))

/-- R61, R62, R83: what one read of the bus gives and changes under each answer of the MemoryInterface: always a byte or
a failure, and no change but to the model's own list of calls (log entry 6). -/
def Obligations.BusReadsByTheMap : Prop :=
  ∀ (kind : AccessKind) (a : Word) (w : Work),
    (readAnswerOf w.st.cfg a = .cell →
      memRead kind a w = .ok (w.st.peek a, { w with log := w.log ++ [⟨kind, a, w.st.peek a⟩] })) ∧
    (∀ v, readAnswerOf w.st.cfg a = .fixed v →
      memRead kind a w = .ok (v, { w with log := w.log ++ [⟨kind, a, v⟩] })) ∧
    (readAnswerOf w.st.cfg a = .device → ∃ v,
      memRead kind a w = .ok (v, { w with st := { w.st with calls := .read a :: w.st.calls },
                                          log := w.log ++ [⟨kind, a, v⟩] })) ∧
    (readAnswerOf w.st.cfg a = .external →
      (∃ v, memRead kind a w = .ok (v, { w with st := { w.st with calls := .read a :: w.st.calls },
                                                log := w.log ++ [⟨kind, a, v⟩] })) ∨
      memRead kind a w =
        .error (.busFault kind a { w.st with calls := .read a :: w.st.calls, faulted := some ⟨kind, a⟩ })) ∧
    (readAnswerOf w.st.cfg a = .fails →
      memRead kind a w = .error (.busFault kind a { w.st with faulted := some ⟨kind, a⟩ }))

/-- R83 and the canonical form: a store to plain RAM is read back, leaves every other byte alone, and keeps memory's
canonical form. -/
def Obligations.StoresAreReadBack : Prop :=
  ∀ (s : State) (ea : Word) (v : Byte),
    (s.poke ea v).peek ea = v ∧ (∀ a, a ≠ ea → (s.poke ea v).peek a = s.peek a) ∧
    (Memory.wf s.mem → Memory.wf (s.poke ea v).mem)

/-! ### Loads, stores and transfers -/

/-- R202 to R204: LDA, LDX and LDY, in every form: the operand goes to the register, N and Z come from it, and
nothing else changes. -/
def Obligations.LoadsPutTheOperandInTheRegister : Prop :=
  ∀ (i : Instr) (op : ReadOp) (f : ReadForm) (s : State) (v : Byte) (crossed : Bool) (w : Work),
    shapeOf i = .read op f → operandOf i f s = .ok (v, crossed, w) → (op = .lda ∨ op = .ldx ∨ op = .ldy) →
    ∃ t, exec i s = .next t ∧
      t.a = (if op = .lda then v else s.a) ∧ t.x = (if op = .ldx then v else s.x) ∧
      t.y = (if op = .ldy then v else s.y) ∧ t.p = withNZ s.p v ∧
      FallsThrough i (pageExtra i crossed) s t ∧ StackKept s t ∧ MemoryKept s t

/-- R205 to R207: STA, STX and STY, in every form, where the MemoryInterface accepts the write: one byte is stored at
the effective address, no flag and no register is written, and there is no page penalty. -/
def Obligations.StoresWriteOneByte : Prop :=
  ∀ (i : Instr) (r : StoreReg) (f : EaForm) (s : State) (ea : Word) (crossed : Bool) (w u : Work),
    let v : Byte := match r with | .a => s.a | .x => s.x | .y => s.y
    shapeOf i = .write r f → resolve f (begun i s) = .ok (ea, crossed, w) →
    memWrite .write ea v (advanced i s w) = .ok u →
    ∃ t, exec i s = .next t ∧ (∀ a, t.peek a = afterStore s ea v a) ∧
      t.p = s.p ∧ IndexAndAccumulatorKept s t ∧ FallsThrough i 0 s t ∧ StackKept s t

/-- R208 to R213: the register transfers: the whole next state but its record. TXS writes no flag. -/
def Obligations.TransfersCopyOneRegister : Prop :=
  ∀ s : State,
    let next (i : Instr) (u : State) : Prop := ∃ r, exec i s = .next
      { u with pc := s.pc + 1, cycles := s.cycles + 2, instructions := s.instructions + 1, lastStep := some r }
    next .tax { s with x := s.a, p := withNZ s.p s.a } ∧ next .tay { s with y := s.a, p := withNZ s.p s.a } ∧
    next .txa { s with a := s.x, p := withNZ s.p s.x } ∧ next .tya { s with a := s.y, p := withNZ s.p s.y } ∧
    next .tsx { s with x := s.sp, p := withNZ s.p s.sp } ∧ next .txs { s with sp := s.x }

/-! ### Stack instructions -/

/-- R231, R232, R67: PHA and PHP store one byte at 0x0100 + SP, then decrement SP; PHP's byte has bits 5 and 4 set;
a push with SP = 0 counts a wrap. No flag is written. The MemoryInterface must accept the write. -/
def Obligations.PushInstructionsStoreOneByte : Prop :=
  ∀ (i : Instr) (s u : State),
    let v : Byte := if i = .pha then s.a else packP s.p true
    (i = .pha ∨ i = .php) → busWrite (stackAddr s.sp) v s = (true, u) →
    ∃ t, exec i s = .next t ∧ (∀ a, t.peek a = afterStore s (stackAddr s.sp) v a) ∧
      t.sp = s.sp - 1 ∧ t.stackWrapCount = s.stackWrapCount + (if s.sp = 0 then 1 else 0) ∧
      t.p = s.p ∧ IndexAndAccumulatorKept s t ∧ FallsThrough i 0 s t

/-- R233, R234, R68: PLA and PLP increment SP, then load the byte at 0x0100 + SP; PLA writes A, N and Z; PLP writes
the six flags from bits 7, 6, 3, 2, 1, 0 and leaves the stored B. -/
def Obligations.PullInstructionsLoadOneByte : Prop :=
  ∀ (i : Instr) (s u : State) (v : Byte), (i = .pla ∨ i = .plp) → busRead (stackAddr (s.sp + 1)) s = (some v, u) →
    ∃ t, exec i s = .next t ∧
      t.a = (if i = .pla then v else s.a) ∧ t.x = s.x ∧ t.y = s.y ∧
      t.p = (if i = .pla then withNZ s.p v
        else ⟨v.getLsbD 7, v.getLsbD 6, s.p.b, v.getLsbD 3, v.getLsbD 2, v.getLsbD 1, v.getLsbD 0⟩) ∧
      t.sp = s.sp + 1 ∧ t.stackWrapCount = s.stackWrapCount + (if s.sp = 0xFF then 1 else 0) ∧
      MemoryKept s t ∧ FallsThrough i 0 s t

/-! ### Arithmetic and compare -/

/-- R251, R252: ADC with D = 0, in every form: the sum modulo 256, C iff the unsigned sum exceeds 255, V iff the
signed sum leaves -128 .. 127, N and Z from the result, and nothing else. -/
def Obligations.BinaryAdditionSetsCarryAndOverflow : Prop :=
  ∀ (i : Instr) (f : ReadForm) (s : State) (v : Byte) (crossed : Bool) (w : Work),
    shapeOf i = .read .adc f → operandOf i f s = .ok (v, crossed, w) → s.p.d = false →
    let total : Nat := s.a.toNat + v.toNat + s.p.c.toNat
    let signed : Int := s.a.toInt + v.toInt + s.p.c.toNat
    ∃ t, exec i s = .next t ∧ t.a.toNat = total % 256 ∧
      t.p = { withNZ s.p t.a with c := decide (total > 255), v := decide (signed < -128 ∨ signed > 127) } ∧
      t.x = s.x ∧ t.y = s.y ∧ FallsThrough i (pageExtra i crossed) s t ∧ StackKept s t ∧ MemoryKept s t

/-- R253: ADC with D = 1, on every pair of bytes: the low digits' sum with its correction, the whole sum, A and the
four flags it gives (Z the binary sum's); I, D and B are kept. On decimal digits A and C are the decimal sum and its
carry. -/
def Obligations.DecimalAdditionAddsDigits : Prop :=
  ∀ (i : Instr) (f : ReadForm) (s : State) (v : Byte) (crossed : Bool) (w : Work),
    shapeOf i = .read .adc f → operandOf i f s = .ok (v, crossed, w) → s.p.d = true →
    let low : Nat := s.a.toNat % 16 + v.toNat % 16 + s.p.c.toNat
    let digit : Nat := if low ≥ 10 then (low + 6) % 16 + 16 else low
    let total : Nat := s.a.toNat / 16 * 16 + v.toNat / 16 * 16 + digit
    let signed : Int := s.a.toInt / 16 * 16 + v.toInt / 16 * 16 + digit
    ∃ t, exec i s = .next t ∧ t.a.toNat = (if total ≥ 0xA0 then total + 0x60 else total) % 256 ∧
      t.p = { s.p with
        n := decide (total % 256 ≥ 128), v := decide (signed < -128 ∨ signed > 127)
        z := decide ((s.a.toNat + v.toNat + s.p.c.toNat) % 256 = 0), c := decide (total ≥ 0xA0) } ∧
      (isBcd s.a = true → isBcd v = true → isBcd t.a = true ∧
        bcdValue t.a + 100 * t.p.c.toNat = bcdValue s.a + bcdValue v + s.p.c.toNat) ∧
      t.x = s.x ∧ t.y = s.y ∧ FallsThrough i (pageExtra i crossed) s t ∧ StackKept s t ∧ MemoryKept s t

/-- R254, R255: SBC in both modes, in every form: the flags are the binary difference's (C iff no borrow, V iff the
signed difference leaves -128 .. 127); A is the difference where D = 0, and where D = 1 the digits' difference with
its corrections (R256), which on decimal digits is the decimal difference. -/
def Obligations.SubtractionBorrowsAndOverflows : Prop :=
  ∀ (i : Instr) (f : ReadForm) (s : State) (v : Byte) (crossed : Bool) (w : Work),
    shapeOf i = .read .sbc f → operandOf i f s = .ok (v, crossed, w) →
    let borrow : Nat := 1 - s.p.c.toNat
    let r : Byte := s.a - v - BitVec.ofNat 8 borrow
    let signed : Int := s.a.toInt - v.toInt - borrow
    let low : Int := (s.a.toNat % 16 : Nat) - (v.toNat % 16 : Nat) - borrow
    let digit : Int := if low < 0 then (low - 6) % 16 - 16 else low
    let total : Int := (s.a.toNat / 16 * 16 : Nat) - (v.toNat / 16 * 16 : Nat) + digit
    ∃ t, exec i s = .next t ∧
      t.p = { withNZ s.p r with
        c := decide (v.toNat + borrow ≤ s.a.toNat), v := decide (signed < -128 ∨ signed > 127) } ∧
      (s.p.d = false → t.a = r) ∧
      (s.p.d = true → (t.a.toNat : Int) = (if total < 0 then total - 0x60 else total) % 256) ∧
      (s.p.d = true → isBcd s.a = true → isBcd v = true → isBcd t.a = true ∧
        (bcdValue t.a : Int) = ((bcdValue s.a : Int) - bcdValue v - borrow) % 100) ∧
      t.x = s.x ∧ t.y = s.y ∧ FallsThrough i (pageExtra i crossed) s t ∧ StackKept s t ∧ MemoryKept s t

/-- R258 to R261: CMP, CPX and CPY, in every form, set C, Z and N from the comparison and write nothing else. -/
def Obligations.ComparesWriteThreeFlags : Prop :=
  ∀ (i : Instr) (op : ReadOp) (f : ReadForm) (s : State) (m : Byte) (crossed : Bool) (w : Work),
    shapeOf i = .read op f → operandOf i f s = .ok (m, crossed, w) → (op = .cmp ∨ op = .cpx ∨ op = .cpy) →
    let r : Byte := if op = .cmp then s.a else if op = .cpx then s.x else s.y
    ∃ t, exec i s = .next t ∧
      t.p = { s.p with
        c := decide (m.toNat ≤ r.toNat), z := decide (r = m)
        n := decide ((r.toNat + 256 - m.toNat) % 256 ≥ 128) } ∧
      IndexAndAccumulatorKept s t ∧ FallsThrough i (pageExtra i crossed) s t ∧ StackKept s t ∧ MemoryKept s t

/-! ### Logical operations and bit test -/

/-- R300 to R303: AND, ORA and EOR, in every form: bitwise on A and the operand, N and Z from the result, C and V
untouched. -/
def Obligations.LogicalOperationsAreBitwise : Prop :=
  ∀ (i : Instr) (op : ReadOp) (f : ReadForm) (s : State) (m : Byte) (crossed : Bool) (w : Work),
    shapeOf i = .read op f → operandOf i f s = .ok (m, crossed, w) → (op = .and ∨ op = .ora ∨ op = .eor) →
    ∃ t, exec i s = .next t ∧
      (∀ k, k < 8 → t.a.getLsbD k =
        (if op = .and then s.a.getLsbD k && m.getLsbD k
          else if op = .ora then s.a.getLsbD k || m.getLsbD k
          else s.a.getLsbD k != m.getLsbD k)) ∧
      t.p = withNZ s.p t.a ∧ t.x = s.x ∧ t.y = s.y ∧
      FallsThrough i (pageExtra i crossed) s t ∧ StackKept s t ∧ MemoryKept s t

/-- R304: BIT: N and V are bits 7 and 6 of the memory byte, Z says whether it shares a bit with A; no register is
written. -/
def Obligations.BitTestReadsTwoBits : Prop :=
  ∀ (i : Instr) (f : ReadForm) (s : State) (m : Byte) (crossed : Bool) (w : Work),
    shapeOf i = .read .bit f → operandOf i f s = .ok (m, crossed, w) →
    ∃ t, exec i s = .next t ∧
      t.p = { s.p with n := m.getLsbD 7, v := m.getLsbD 6, z := decide (s.a &&& m = 0) } ∧
      IndexAndAccumulatorKept s t ∧ FallsThrough i 0 s t ∧ StackKept s t ∧ MemoryKept s t

/-! ### Increments, decrements and shifts -/

/-- R280, R283 to R286: INX, INY, DEX and DEY: the whole next state but its record; C and V are not written. -/
def Obligations.RegisterStepsWrap : Prop :=
  ∀ s : State,
    let next (i : Instr) (u : State) : Prop := ∃ r, exec i s = .next
      { u with pc := s.pc + 1, cycles := s.cycles + 2, instructions := s.instructions + 1, lastStep := some r }
    let up (v : Byte) : Byte := BitVec.ofNat 8 ((v.toNat + 1) % 256)
    let down (v : Byte) : Byte := BitVec.ofNat 8 ((v.toNat + 255) % 256)
    next .inx { s with x := up s.x, p := withNZ s.p (up s.x) } ∧
    next .iny { s with y := up s.y, p := withNZ s.p (up s.y) } ∧
    next .dex { s with x := down s.x, p := withNZ s.p (down s.x) } ∧
    next .dey { s with y := down s.y, p := withNZ s.p (down s.y) }

/-- R280 to R282: INC and DEC, in every form, where the MemoryInterface answers the read and accepts the write: one
read and one write of the effective address, N and Z from the result, and no carry. -/
def Obligations.MemoryStepsWrap : Prop :=
  ∀ (i : Instr) (op : ModifyOp) (f : EaForm) (s : State) (ea : Word) (v : Byte) (crossed : Bool) (w u x : Work),
    let r : Byte := BitVec.ofNat 8 ((v.toNat + if op = .inc then 1 else 255) % 256)
    shapeOf i = .modify op f → (op = .inc ∨ op = .dec) → resolve f (begun i s) = .ok (ea, crossed, w) →
    memRead .read ea (advanced i s w) = .ok (v, u) → memWrite .write ea r u = .ok x →
    ∃ t, exec i s = .next t ∧ (∀ a, t.peek a = afterStore s ea r a) ∧ t.p = withNZ s.p r ∧
      IndexAndAccumulatorKept s t ∧ FallsThrough i 0 s t ∧ StackKept s t

/-- R305 to R309: the memory forms of the shifts and rotates, where the MemoryInterface answers the read and accepts
the write: the byte at the effective address is replaced, C is the bit shifted out, N and Z come from the result. -/
def Obligations.MemoryShiftsReplaceTheByte : Prop :=
  ∀ (i : Instr) (op : ModifyOp) (f : EaForm) (s : State) (ea : Word) (v : Byte) (crossed : Bool) (w u x : Work),
    let r : Byte := BitVec.ofNat 8 ((
      if op = .asl then v.toNat * 2
      else if op = .lsr then v.toNat / 2
      else if op = .rol then v.toNat * 2 + s.p.c.toNat
      else v.toNat / 2 + 128 * s.p.c.toNat) % 256)
    shapeOf i = .modify op f → (op ≠ .inc ∧ op ≠ .dec) → resolve f (begun i s) = .ok (ea, crossed, w) →
    memRead .read ea (advanced i s w) = .ok (v, u) → memWrite .write ea r u = .ok x →
    ∃ t, exec i s = .next t ∧ (∀ a, t.peek a = afterStore s ea r a) ∧
      t.p = { withNZ s.p r with c := if op = .asl ∨ op = .rol then v.getLsbD 7 else v.getLsbD 0 } ∧
      IndexAndAccumulatorKept s t ∧ FallsThrough i 0 s t ∧ StackKept s t

/-- R305 to R309: the accumulator forms of the shifts and rotates: A is replaced and memory is not touched. -/
def Obligations.AccumulatorShiftsReplaceA : Prop :=
  ∀ (i : Instr) (op : ModifyOp) (s : State), shapeOf i = .accumulator op →
    ∃ t, exec i s = .next t ∧
      (op = .asl → t.a.toNat = s.a.toNat * 2 % 256) ∧ (op = .lsr → t.a.toNat = s.a.toNat / 2) ∧
      (op = .rol → t.a.toNat = (s.a.toNat * 2 + s.p.c.toNat) % 256) ∧
      (op = .ror → t.a.toNat = s.a.toNat / 2 + 128 * s.p.c.toNat) ∧
      t.p = { withNZ s.p t.a with c := if op = .asl ∨ op = .rol then s.a.getLsbD 7 else s.a.getLsbD 0 } ∧
      t.x = s.x ∧ t.y = s.y ∧ FallsThrough i 0 s t ∧ StackKept s t ∧ MemoryKept s t

/-! ### Control transfer -/

/-- R341 to R349, R162: the eight branches: the flag each tests, the target, the extra cycles, and that nothing but
PC and the counters is written. -/
def Obligations.BranchesTestOneFlag : Prop :=
  ∀ (i : Instr) (op : BranchOp) (b1 : Byte) (s : State), shapeOf i = .branch op b1 →
    let taken : Bool := match op with
      | .bcc => !s.p.c | .bcs => s.p.c | .beq => s.p.z | .bne => !s.p.z
      | .bmi => s.p.n | .bpl => !s.p.n | .bvc => !s.p.v | .bvs => s.p.v
    let next : Word := s.pc + 2
    ∃ t, exec i s = .next t ∧
      (taken = false → t.pc = next ∧ Retired i 0 s t) ∧
      (taken = true → (t.pc.toNat : Int) = ((next.toNat : Int) + b1.toInt) % 65536 ∧
        Retired i (if t.pc.toNat / 256 = next.toNat / 256 then 1 else 2) s t) ∧
      t.p = s.p ∧ IndexAndAccumulatorKept s t ∧ StackKept s t ∧ MemoryKept s t ∧ SystemKept s t

/-- R350: JMP, in both forms, puts the effective address in PC and writes nothing else. -/
def Obligations.JumpsSetThePc : Prop :=
  ∀ (i : Instr) (f : EaForm) (s : State) (ea : Word) (crossed : Bool) (w : Work),
    shapeOf i = .jmp f → resolve f (begun i s) = .ok (ea, crossed, w) →
    ∃ t, exec i s = .next t ∧ t.pc = ea ∧ Retired i 0 s t ∧
      t.p = s.p ∧ IndexAndAccumulatorKept s t ∧ StackKept s t ∧ MemoryKept s t ∧ SystemKept s t

/-- R351: JSR pushes the address of its last byte, high byte first, and jumps; exactly one wrap is counted when SP is
0 or 1 before it. -/
def Obligations.JsrPushesItsLastAddress : Prop :=
  ∀ (b1 b2 : Byte) (s : State), StackIsRam s.cfg →
    let pushed : Word := s.pc + 2
    ∃ t, exec (.jsr b1 b2) s = .next t ∧ t.pc.toNat = b2.toNat * 256 + b1.toNat ∧ t.sp = s.sp - 2 ∧
      (∀ a, t.peek a = if a = stackAddr (s.sp - 1) then lo8 pushed
        else if a = stackAddr s.sp then hi8 pushed else s.peek a) ∧
      t.stackWrapCount = s.stackWrapCount + (if s.sp.toNat < 2 then 1 else 0) ∧
      Retired (.jsr b1 b2) 0 s t ∧ t.p = s.p ∧ IndexAndAccumulatorKept s t ∧ SystemKept s t

/-- R352: RTS pulls the low byte, then the high byte, and continues at the address after the pulled one. -/
def Obligations.RtsContinuesAfterThePulledAddress : Prop :=
  ∀ s : State, StackIsRam s.cfg →
    ∃ t, exec .rts s = .next t ∧
      t.pc = word (s.peek (stackAddr (s.sp + 2))) (s.peek (stackAddr (s.sp + 1))) + 1 ∧ t.sp = s.sp + 2 ∧
      t.stackWrapCount = s.stackWrapCount + (if s.sp.toNat ≥ 254 then 1 else 0) ∧
      Retired .rts 0 s t ∧ t.p = s.p ∧ IndexAndAccumulatorKept s t ∧ MemoryKept s t ∧ SystemKept s t

/-- R353: BRK takes the entry whatever I is: it pushes its address plus 2 and the status byte with bit 4 set, sets I
and no other flag, and loads PC from 0xFFFE; it counts as an instruction. -/
def Obligations.BrkTakesTheEntry : Prop :=
  ∀ (signature : Byte) (s : State), StackIsRam s.cfg → VectorReadable s.cfg 0xFFFE →
    ∃ t, exec (.brk signature) s = .next t ∧ t.pc = vectorTarget s 0xFFFE ∧ t.sp = s.sp - 3 ∧
      (∀ a, t.peek a = afterEntry s (s.pc + 2) (packP s.p true) a) ∧ t.p = { s.p with i := true } ∧
      t.stackWrapCount = s.stackWrapCount + (if s.sp.toNat < 3 then 1 else 0) ∧
      Retired (.brk signature) 0 s t ∧ IndexAndAccumulatorKept s t ∧ SystemKept s t

/-- R354, R435: RTI pulls the status byte and then PC, with no plus 1; the stored B is not written. -/
def Obligations.RtiRestoresStatusAndPc : Prop :=
  ∀ s : State, StackIsRam s.cfg →
    let v : Byte := s.peek (stackAddr (s.sp + 1))
    ∃ t, exec .rti s = .next t ∧
      t.p = ⟨v.getLsbD 7, v.getLsbD 6, s.p.b, v.getLsbD 3, v.getLsbD 2, v.getLsbD 1, v.getLsbD 0⟩ ∧
      t.pc = word (s.peek (stackAddr (s.sp + 3))) (s.peek (stackAddr (s.sp + 2))) ∧ t.sp = s.sp + 3 ∧
      t.stackWrapCount = s.stackWrapCount + (if s.sp.toNat ≥ 253 then 1 else 0) ∧
      Retired .rti 0 s t ∧ IndexAndAccumulatorKept s t ∧ MemoryKept s t ∧ SystemKept s t

/-! ### Flag instructions, NOP and undefined opcodes -/

/-- R381 to R388: the whole next state but its record: each writes the one flag it names, and NOP writes none. -/
def Obligations.FlagInstructionsWriteOneFlag : Prop :=
  ∀ s : State,
    let next (i : Instr) (p : Flags) : Prop := ∃ r, exec i s = .next
      { s with p := p, pc := s.pc + 1, cycles := s.cycles + 2, instructions := s.instructions + 1, lastStep := some r }
    next .clc { s.p with c := false } ∧ next .sec { s.p with c := true } ∧
    next .cld { s.p with d := false } ∧ next .sed { s.p with d := true } ∧
    next .cli { s.p with i := false } ∧ next .sei { s.p with i := true } ∧
    next .clv { s.p with v := false } ∧ next .nop s.p

/-- R401: an undefined opcode under each policy: the halt report with PC on the opcode and nothing counted, or a
fixed-cost no-op of one byte and two cycles. Both complete, and neither touches a register, a flag or memory. That
`exec` alone, from any state, puts the fetch of the opcode at PC in the record's bus log is the model's choice (log
entry 13): in a step that fetched the opcode there, it is the fetch R128 logs. -/
def Obligations.UndefinedOpcodesFollowThePolicy : Prop :=
  ∀ (opcode : Byte) (s : State), opcode ∈ undefinedOpcodes → ∃ r : StepRecord,
    r.addr = s.pc ∧ r.opcode = some opcode ∧ r.operands = [] ∧ r.mnemonic = "???" ∧
    r.busLog = [⟨.fetch, s.pc, opcode⟩] ∧
    (s.cfg.illegalPolicy = .halt → r.kind = .illegalHalt ∧ r.cycles = 0 ∧
      exec (.undefined opcode) s =
        .next { s with halted := true, haltInfo := some ⟨s.pc, opcode⟩, lastStep := some r }) ∧
    (s.cfg.illegalPolicy = .nop → r.kind = .instruction ∧ r.cycles = 2 ∧
      exec (.undefined opcode) s =
        .next { s with pc := s.pc + 1, cycles := s.cycles + 2, instructions := s.instructions + 1,
                       lastStep := some r })

/-! ### The whole machine -/

/-- A step keeps the invariant, from every state that meets it. -/
def Obligations.StepKeepsTheInvariant : Prop := ∀ s t : State, Inv s → step s = .next t → Inv t

/-- The reset state meets the invariant. -/
def Obligations.ResetStateMeetsTheInvariant : Prop := Inv State.reset

/-- Every operation of the CPU and of the Debugger keeps the invariant: from a state that meets it, each call that
completes leaves a state that meets it. -/
def Obligations.EveryCallKeepsTheInvariant : Prop :=
  ∀ (c : HostCall) (s t : State) (answer : Answer), Inv s → perform c s = .next (answer, t) → Inv t

/-- On a memory that never signals a failure, whatever calls it has seen, every step of a CPU that has not faulted
completes: nothing is refused and ordinary data ends no run. -/
def Obligations.NoFailureMeansEveryStepCompletes : Prop :=
  ∀ s : State, s.faulted = none → NeverFails s.cfg → ∃ t, step s = .next t ∧ t.faulted = none ∧ NeverFails t.cfg

/-- R131: every step that completes adds the cycles it returns to `cycles`, and counts as an instruction exactly where
its record's kind says so; a step that faults changes neither counter. -/
def Obligations.StepsAccountForTheirCycles : Prop :=
  ∀ s : State,
    (∀ t, step s = .next t → ∃ r, t.lastStep = some r ∧ r.addr = s.pc ∧ r.pre = s.snapshot ∧
      t.cycles = s.cycles + r.cycles ∧
      t.instructions = s.instructions + (if r.kind = .instruction then 1 else 0) ∧
      (r.wrapped = true ↔ s.stackWrapCount < t.stackWrapCount)) ∧
    (∀ kind a left, step s = .fault (.busFault kind a left) →
      left.cycles = s.cycles ∧ left.instructions = s.instructions)

/-- R73, R82: the engine makes no access other than those its record lists: on plain RAM, memory after a step is
memory before it with the log's writes made in order. -/
def Obligations.MemoryChangesByTheLogOnly : Prop :=
  ∀ (s t : State) (r : StepRecord), IsReferenceRam s.cfg → step s = .next t → t.lastStep = some r →
    t.mem = applyLog s.mem r.busLog

/-- R28: no instruction and no service writes the stored B. -/
def Obligations.NoStepWritesTheStoredB : Prop := ∀ s t : State, step s = .next t → t.p.b = s.p.b

/-- R37, R401, R444: after a step that leaves the CPU halted, either it was halted already or an undefined opcode
under the Halt policy was fetched; every register, flag, byte of memory and the cycle counter are as before it. -/
def Obligations.OnlyAnUndefinedOpcodeHalts : Prop :=
  ∀ s t : State, step s = .next t → t.halted = true →
    IndexAndAccumulatorKept s t ∧ t.sp = s.sp ∧ t.pc = s.pc ∧ t.p = s.p ∧ t.mem = s.mem ∧ t.cycles = s.cycles ∧
    (s.halted = true ∨ s.cfg.illegalPolicy = .halt ∧ ∃ h, t.haltInfo = some h ∧ h.opcode ∈ undefinedOpcodes)

/-- R133, R134: `execute` runs its loop to the end within the steps the rule bounds: it stops because the budget is
reached or the engine is halted, and exceeds the budget by less than one instruction's worth, at most 7 cycles. That the
loop is a recursion bounded by `maxCycles / 2 + 1` steps is log entry 17. -/
def Obligations.ExecuteStopsWithinItsBudget : Prop :=
  ∀ (maxCycles n : Nat) (s t : State), execute maxCycles s = .next (n, t) →
    (maxCycles ≤ n ∨ t.halted = true) ∧ (n = 0 ∨ n < maxCycles + 7) ∧ (maxCycles = 0 → n = 0 ∧ t = s) ∧
    (s.halted = true → n = 0 ∧ t = s)

/-- R432, R435: an interrupt entry is precise: where the handler's first instruction is RTI, the program resumes
exactly where it stopped, with its registers and flags as they were. -/
def Obligations.EntryThenRtiResumesTheProgram : Prop :=
  ∀ s t : State, s.faulted = none → s.halted = false → s.nmiPending = true → StackIsRam s.cfg →
    VectorReadable s.cfg 0xFFFA → step s = .next t → readAnswerOf t.cfg t.pc = .cell → t.peek t.pc = 0x40 → ∃ u,
    step t = .next u ∧ u.pc = s.pc ∧ u.p = s.p ∧ u.sp = s.sp ∧ IndexAndAccumulatorKept s u ∧
    u.cycles = s.cycles + 13 ∧ u.instructions = s.instructions + 1

/-- R351, R352: RTS after JSR continues after the JSR, with the stack pointer as it was. -/
def Obligations.RtsReturnsAfterTheJsr : Prop :=
  ∀ (b1 b2 : Byte) (s t : State), StackIsRam s.cfg → exec (.jsr b1 b2) s = .next t → ∃ u,
    exec .rts t = .next u ∧ u.pc = s.pc + 3 ∧ u.sp = s.sp ∧ u.p = s.p ∧ IndexAndAccumulatorKept s u

/-- R129: every documented instruction leaves its record: what was decoded, the registers before it, and a bus log
that begins with the fetch of its bytes. That `exec` alone, from any state, writes those fetch entries is the model's
choice (log entry 13): in a step that fetched the bytes at PC, they are the fetches R128 logs. -/
def Obligations.ExecutedInstructionsLeaveTheirRecord : Prop :=
  ∀ (i : Instr) (s t : State), WellFormed i → (table i.opcode).isDefined = true → exec i s = .next t →
    ∃ (r : StepRecord) (log : List BusEntry),
    t.lastStep = some r ∧ r.kind = .instruction ∧ r.addr = s.pc ∧ r.opcode = some i.opcode ∧
    r.operands = i.operands ∧ r.mnemonic = (table i.opcode).mnemonic.text ∧ r.mode = some (table i.opcode).mode ∧
    r.pre = s.snapshot ∧ r.busLog = fetchLog s.pc (encode i) ++ log

/-- R62, R437, R438: a step that ends in a bus failure names the call that the MemoryInterface failed, a write for the
kinds `write` and `stackWrite` and a read for the others, leaves the counters and the last record alone, and no later
step completes. The mark of a faulted CPU is the model's own (log entry 7). -/
def Obligations.BusFailureEndsTheStep : Prop :=
  ∀ (s left : State) (kind : AccessKind) (a : Word), step s = .fault (.busFault kind a left) →
    CallFailed s.cfg kind a left.calls ∧
    left.cycles = s.cycles ∧ left.instructions = s.instructions ∧ left.lastStep = s.lastStep ∧
    left.halted = false ∧ left.faulted = some ⟨kind, a⟩ ∧ step left = .fault (.afterFault ⟨kind, a⟩)

/-! ### The public accessors -/

/-- R66, R67 to R69, R136: `pushWord` stores the high byte at 0x0100 + SP and the low byte at the next lower stack
address, and `pullWord` gives the word back with SP as it was. -/
def Obligations.PushedWordIsPulledBack : Prop :=
  ∀ (s : State) (v : Word), StackIsRam s.cfg → ∃ t u,
    publicPushWord v s = .ok t ∧ t.sp = s.sp - 2 ∧
    t.peek (0x0100 + s.sp.setWidth 16) = hi8 v ∧ t.peek (0x0100 + (s.sp - 1).setWidth 16) = lo8 v ∧
    (∀ a : Word, a.toNat < 0x0100 ∨ 0x0200 ≤ a.toNat → t.peek a = s.peek a) ∧
    publicPullWord t = .ok (v, u) ∧ u.sp = s.sp ∧ u.mem = t.mem

/-! ### The Debugger -/

/-- R452: observation is unidirectional: a debugged step is the CPU's step with nothing but the Debugger's state
changed, and with the session inactive it is the CPU's step. -/
def Obligations.ObservationLeavesTheCpuAlone : Prop :=
  ∀ s : State,
    (∀ u, debugStep s = .next u → ∃ t, step s = .next t ∧ u = { t with dbg := u.dbg } ∧
      (s.dbg.active = false → u = t)) ∧
    (∀ t, step s = .next t → ∃ u, debugStep s = .next u)

/-- R454, R455: a temporary breakpoint at the address control arrives at is hit once, with its event, and is absent
afterwards, whatever other breakpoints there are. -/
def Obligations.TemporaryBreakpointIsHitOnce : Prop :=
  ∀ (s : State) (r : StepRecord) (d : Debugger) (name : Option String), r.kind ≠ .halted →
    let e := checkBreakpoints s r (setTemporaryBreakpoint s.pc name d)
    findKey Breakpoint.address s.pc e.breakpoints = none ∧
    e.events = d.events ++
      [.breakpointHit s.pc (name.getD ("Temporary breakpoint at $" ++ hex4 s.pc)) 1 s.cycles d.stepIndex] ∧
    checkBreakpoints s r e = e

/-- R465, R466: a watchpoint for writes, in a step whose one access at its address other than fetches is `e`, whatever
else the step logged: it is not hit by a read of its address or by a write of the value it last saw, and is hit by a
write that changes it, which it then records. -/
def Obligations.WriteWatchpointSeesChangesOnly : Prop :=
  ∀ (s : State) (r : StepRecord) (w : Watchpoint) (d : Debugger) (before rest : List BusEntry) (e : BusEntry),
    w.enabled = true → w.accessType = .write → w.condition = none →
    r.busLog = before ++ e :: rest → e.addr = w.address →
    (∀ x ∈ before ++ rest, x.addr = w.address → x.kind = .fetch) →
    ((e.kind = .read ∨ e.kind = .stackRead ∨ e.kind = .vector ∨ e.kind = .fetch) →
      checkWatchpoint s r w d = (w, d)) ∧
    ((e.kind = .write ∨ e.kind = .stackWrite) → w.lastValue = some e.value → checkWatchpoint s r w d = (w, d)) ∧
    ((e.kind = .write ∨ e.kind = .stackWrite) → w.lastValue ≠ some e.value →
      checkWatchpoint s r w d =
        ({ w with hitCount := w.hitCount + 1, lastValue := some e.value },
          { d with events := d.events ++ [.watchpointHit w.address w.name .write e.value (w.hitCount + 1)] }))

/-- R462: a condition that fails to evaluate, of a breakpoint where control arrives or of a watchpoint that an access
matches, is not a hit and is reported once: the record keeps its fields and the second check changes nothing. -/
def Obligations.FailingConditionIsReportedOnce : Prop :=
  ∀ (s : State) (r : StepRecord) (d : Debugger) (q : Pred),
    (∀ b : Breakpoint, r.kind ≠ .halted →
      findKey Breakpoint.address s.pc d.breakpoints = some b → b.enabled = true → b.condition = some q →
      evalPred q ⟨s.regs, s.p, b.hitCount, none⟩ = none →
      let e := checkBreakpoints s r d
      checkBreakpoints s r e = e ∧
      ((Target.breakpoint, s.pc) ∉ d.reported →
        e = { d with
          reported := d.reported ++ [(.breakpoint, s.pc)]
          events := d.events ++ [.conditionError .breakpoint s.pc] }) ∧
      ((Target.breakpoint, s.pc) ∈ d.reported → e = d)) ∧
    (∀ w : Watchpoint, w.enabled = true → (∃ x ∈ r.busLog, watchMatch w x ≠ none) → w.condition = some q →
      evalPred q ⟨s.regs, s.p, w.hitCount, w.lastValue⟩ = none →
      ∃ e, checkWatchpoint s r w d = (w, e) ∧ checkWatchpoint s r w e = (w, e) ∧
      ((Target.watchpoint, w.address) ∉ d.reported →
        e = { d with
          reported := d.reported ++ [(.watchpoint, w.address)]
          events := d.events ++ [.conditionError .watchpoint w.address] }) ∧
      ((Target.watchpoint, w.address) ∈ d.reported → e = d))

/-- R470 to R472: the trace never grows beyond its capacity, keeps what it has collected, and takes the entry of an
executed instruction while the session is active, tracing is on and there is room, and at no other time. -/
def Obligations.TraceStopsWhenFull : Prop :=
  ∀ (s : State) (r : StepRecord) (d : Debugger), d.trace.length ≤ d.traceCap →
    let e := observeWith s r d
    e.traceCap = d.traceCap ∧ e.trace.length ≤ e.traceCap ∧ d.trace <+: e.trace ∧
    (d.active = false → e.trace = d.trace) ∧
    (d.tracing = false → e.trace = d.trace) ∧
    (d.trace.length = d.traceCap → e.trace = d.trace) ∧
    (r.kind ≠ .instruction → e.trace = d.trace) ∧
    (∀ opcode, d.active = true → d.tracing = true → r.kind = .instruction → r.opcode = some opcode →
      d.trace.length < d.traceCap →
      e.trace = d.trace ++ [{
        address := r.addr, opcode := opcode, operands := r.operands, mnemonic := r.mnemonic
        text := disassembly r.addr opcode r.operands, regs := r.pre.regs, flags := r.pre.p
        cycles := r.cycles, timestamp := s.cycles - r.cycles }])

/-- R475, R476: the profile of any trace: its totals, its exact average (0 for an empty trace), how often each mnemonic
occurs, and the first ten of the addresses with their counts, sorted by count descending and then by address. -/
def Obligations.ProfileTotalsAreTheTraces : Prop :=
  ∀ trace : List TraceEntry,
    (profileOf trace).totalInstructions = trace.length ∧
    (profileOf trace).totalCycles = (trace.map TraceEntry.cycles).sum ∧
    (profileOf trace).averageCycles * trace.length = (profileOf trace).totalCycles ∧
    ((profileOf trace).mnemonicCounts.map Prod.fst).Nodup ∧
    (∀ m n, (m, n) ∈ (profileOf trace).mnemonicCounts ↔ 0 < n ∧ n = (trace.map TraceEntry.mnemonic).count m) ∧
    (∃ colder, let ranked := (profileOf trace).hotspots ++ colder
      (profileOf trace).hotspots.length = min 10 ranked.length ∧
      ranked.Pairwise (fun l r => l.2 > r.2 ∨ l.2 = r.2 ∧ l.1.toNat < r.1.toNat) ∧
      ∀ a n, (a, n) ∈ ranked ↔ 0 < n ∧ n = (trace.map TraceEntry.address).count a) ∧
    (trace = [] → profileOf trace = ⟨0, 0, 0, [], []⟩)
end

