-- ==== Sys2Proof/Laws/State.lean ====
section
/-! SUPPORT. One lemma per field per named update of State, true by definition, so that no proof unfolds a record
update. -/

namespace Sys2Proof.Machine

@[simp] theorem State.poke_a (a : Word) (v : Byte) (s : State) : (s.poke a v).a = s.a := rfl
@[simp] theorem State.poke_x (a : Word) (v : Byte) (s : State) : (s.poke a v).x = s.x := rfl
@[simp] theorem State.poke_y (a : Word) (v : Byte) (s : State) : (s.poke a v).y = s.y := rfl
@[simp] theorem State.poke_sp (a : Word) (v : Byte) (s : State) : (s.poke a v).sp = s.sp := rfl
@[simp] theorem State.poke_pc (a : Word) (v : Byte) (s : State) : (s.poke a v).pc = s.pc := rfl
@[simp] theorem State.poke_p (a : Word) (v : Byte) (s : State) : (s.poke a v).p = s.p := rfl
@[simp] theorem State.poke_cycles (a : Word) (v : Byte) (s : State) : (s.poke a v).cycles = s.cycles := rfl
@[simp] theorem State.poke_instructions (a : Word) (v : Byte) (s : State) :
    (s.poke a v).instructions = s.instructions := rfl
@[simp] theorem State.poke_nmiPending (a : Word) (v : Byte) (s : State) :
    (s.poke a v).nmiPending = s.nmiPending := rfl
@[simp] theorem State.poke_irqPending (a : Word) (v : Byte) (s : State) :
    (s.poke a v).irqPending = s.irqPending := rfl
@[simp] theorem State.poke_halted (a : Word) (v : Byte) (s : State) : (s.poke a v).halted = s.halted := rfl
@[simp] theorem State.poke_haltInfo (a : Word) (v : Byte) (s : State) : (s.poke a v).haltInfo = s.haltInfo := rfl
@[simp] theorem State.poke_stackWrapCount (a : Word) (v : Byte) (s : State) :
    (s.poke a v).stackWrapCount = s.stackWrapCount := rfl
@[simp] theorem State.poke_lastStep (a : Word) (v : Byte) (s : State) : (s.poke a v).lastStep = s.lastStep := rfl
@[simp] theorem State.poke_mem (a : Word) (v : Byte) (s : State) :
    (s.poke a v).mem = Memory.write s.mem a.toNat v := rfl
@[simp] theorem State.poke_cfg (a : Word) (v : Byte) (s : State) : (s.poke a v).cfg = s.cfg := rfl
@[simp] theorem State.poke_dbg (a : Word) (v : Byte) (s : State) : (s.poke a v).dbg = s.dbg := rfl
@[simp] theorem State.poke_faulted (a : Word) (v : Byte) (s : State) : (s.poke a v).faulted = s.faulted := rfl
@[simp] theorem State.poke_calls (a : Word) (v : Byte) (s : State) :
    (s.poke a v).calls = s.calls := rfl

@[simp] theorem State.noteCall_a (call : BusCall) (s : State) : (s.noteCall call).a = s.a := rfl
@[simp] theorem State.noteCall_x (call : BusCall) (s : State) : (s.noteCall call).x = s.x := rfl
@[simp] theorem State.noteCall_y (call : BusCall) (s : State) : (s.noteCall call).y = s.y := rfl
@[simp] theorem State.noteCall_sp (call : BusCall) (s : State) : (s.noteCall call).sp = s.sp := rfl
@[simp] theorem State.noteCall_pc (call : BusCall) (s : State) : (s.noteCall call).pc = s.pc := rfl
@[simp] theorem State.noteCall_p (call : BusCall) (s : State) : (s.noteCall call).p = s.p := rfl
@[simp] theorem State.noteCall_cycles (call : BusCall) (s : State) : (s.noteCall call).cycles = s.cycles := rfl
@[simp] theorem State.noteCall_instructions (call : BusCall) (s : State) :
    (s.noteCall call).instructions = s.instructions := rfl
@[simp] theorem State.noteCall_nmiPending (call : BusCall) (s : State) :
    (s.noteCall call).nmiPending = s.nmiPending := rfl
@[simp] theorem State.noteCall_irqPending (call : BusCall) (s : State) :
    (s.noteCall call).irqPending = s.irqPending := rfl
@[simp] theorem State.noteCall_halted (call : BusCall) (s : State) : (s.noteCall call).halted = s.halted := rfl
@[simp] theorem State.noteCall_haltInfo (call : BusCall) (s : State) : (s.noteCall call).haltInfo = s.haltInfo := rfl
@[simp] theorem State.noteCall_stackWrapCount (call : BusCall) (s : State) :
    (s.noteCall call).stackWrapCount = s.stackWrapCount := rfl
@[simp] theorem State.noteCall_lastStep (call : BusCall) (s : State) : (s.noteCall call).lastStep = s.lastStep := rfl
@[simp] theorem State.noteCall_mem (call : BusCall) (s : State) : (s.noteCall call).mem = s.mem := rfl
@[simp] theorem State.noteCall_cfg (call : BusCall) (s : State) : (s.noteCall call).cfg = s.cfg := rfl
@[simp] theorem State.noteCall_dbg (call : BusCall) (s : State) : (s.noteCall call).dbg = s.dbg := rfl
@[simp] theorem State.noteCall_faulted (call : BusCall) (s : State) : (s.noteCall call).faulted = s.faulted := rfl
@[simp] theorem State.noteCall_calls (call : BusCall) (s : State) : (s.noteCall call).calls = call :: s.calls := rfl

@[simp] theorem setNZ_a (v : Byte) (s : State) : (setNZ v s).a = s.a := rfl
@[simp] theorem setNZ_x (v : Byte) (s : State) : (setNZ v s).x = s.x := rfl
@[simp] theorem setNZ_y (v : Byte) (s : State) : (setNZ v s).y = s.y := rfl
@[simp] theorem setNZ_sp (v : Byte) (s : State) : (setNZ v s).sp = s.sp := rfl
@[simp] theorem setNZ_pc (v : Byte) (s : State) : (setNZ v s).pc = s.pc := rfl
@[simp] theorem setNZ_p (v : Byte) (s : State) : (setNZ v s).p = { s.p with n := v.getLsbD 7, z := v == 0 } := rfl
@[simp] theorem setNZ_cycles (v : Byte) (s : State) : (setNZ v s).cycles = s.cycles := rfl
@[simp] theorem setNZ_instructions (v : Byte) (s : State) : (setNZ v s).instructions = s.instructions := rfl
@[simp] theorem setNZ_nmiPending (v : Byte) (s : State) : (setNZ v s).nmiPending = s.nmiPending := rfl
@[simp] theorem setNZ_irqPending (v : Byte) (s : State) : (setNZ v s).irqPending = s.irqPending := rfl
@[simp] theorem setNZ_halted (v : Byte) (s : State) : (setNZ v s).halted = s.halted := rfl
@[simp] theorem setNZ_haltInfo (v : Byte) (s : State) : (setNZ v s).haltInfo = s.haltInfo := rfl
@[simp] theorem setNZ_stackWrapCount (v : Byte) (s : State) : (setNZ v s).stackWrapCount = s.stackWrapCount := rfl
@[simp] theorem setNZ_lastStep (v : Byte) (s : State) : (setNZ v s).lastStep = s.lastStep := rfl
@[simp] theorem setNZ_mem (v : Byte) (s : State) : (setNZ v s).mem = s.mem := rfl
@[simp] theorem setNZ_cfg (v : Byte) (s : State) : (setNZ v s).cfg = s.cfg := rfl
@[simp] theorem setNZ_dbg (v : Byte) (s : State) : (setNZ v s).dbg = s.dbg := rfl
@[simp] theorem setNZ_faulted (v : Byte) (s : State) : (setNZ v s).faulted = s.faulted := rfl
@[simp] theorem setNZ_calls (v : Byte) (s : State) : (setNZ v s).calls = s.calls := rfl

@[simp] theorem setC_a (c : Bool) (s : State) : (setC c s).a = s.a := rfl
@[simp] theorem setC_x (c : Bool) (s : State) : (setC c s).x = s.x := rfl
@[simp] theorem setC_y (c : Bool) (s : State) : (setC c s).y = s.y := rfl
@[simp] theorem setC_sp (c : Bool) (s : State) : (setC c s).sp = s.sp := rfl
@[simp] theorem setC_pc (c : Bool) (s : State) : (setC c s).pc = s.pc := rfl
@[simp] theorem setC_p (c : Bool) (s : State) : (setC c s).p = { s.p with c := c } := rfl
@[simp] theorem setC_cycles (c : Bool) (s : State) : (setC c s).cycles = s.cycles := rfl
@[simp] theorem setC_instructions (c : Bool) (s : State) : (setC c s).instructions = s.instructions := rfl
@[simp] theorem setC_nmiPending (c : Bool) (s : State) : (setC c s).nmiPending = s.nmiPending := rfl
@[simp] theorem setC_irqPending (c : Bool) (s : State) : (setC c s).irqPending = s.irqPending := rfl
@[simp] theorem setC_halted (c : Bool) (s : State) : (setC c s).halted = s.halted := rfl
@[simp] theorem setC_haltInfo (c : Bool) (s : State) : (setC c s).haltInfo = s.haltInfo := rfl
@[simp] theorem setC_stackWrapCount (c : Bool) (s : State) : (setC c s).stackWrapCount = s.stackWrapCount := rfl
@[simp] theorem setC_lastStep (c : Bool) (s : State) : (setC c s).lastStep = s.lastStep := rfl
@[simp] theorem setC_mem (c : Bool) (s : State) : (setC c s).mem = s.mem := rfl
@[simp] theorem setC_cfg (c : Bool) (s : State) : (setC c s).cfg = s.cfg := rfl
@[simp] theorem setC_dbg (c : Bool) (s : State) : (setC c s).dbg = s.dbg := rfl
@[simp] theorem setC_faulted (c : Bool) (s : State) : (setC c s).faulted = s.faulted := rfl
@[simp] theorem setC_calls (c : Bool) (s : State) : (setC c s).calls = s.calls := rfl

@[simp] theorem compare_a (r m : Byte) (s : State) : (compare r m s).a = s.a := rfl
@[simp] theorem compare_x (r m : Byte) (s : State) : (compare r m s).x = s.x := rfl
@[simp] theorem compare_y (r m : Byte) (s : State) : (compare r m s).y = s.y := rfl
@[simp] theorem compare_sp (r m : Byte) (s : State) : (compare r m s).sp = s.sp := rfl
@[simp] theorem compare_pc (r m : Byte) (s : State) : (compare r m s).pc = s.pc := rfl
@[simp] theorem compare_p (r m : Byte) (s : State) :
    (compare r m s).p = { s.p with c := decide (r.toNat ≥ m.toNat), z := r == m, n := (r - m).getLsbD 7 } := rfl
@[simp] theorem compare_cycles (r m : Byte) (s : State) : (compare r m s).cycles = s.cycles := rfl
@[simp] theorem compare_instructions (r m : Byte) (s : State) : (compare r m s).instructions = s.instructions := rfl
@[simp] theorem compare_nmiPending (r m : Byte) (s : State) : (compare r m s).nmiPending = s.nmiPending := rfl
@[simp] theorem compare_irqPending (r m : Byte) (s : State) : (compare r m s).irqPending = s.irqPending := rfl
@[simp] theorem compare_halted (r m : Byte) (s : State) : (compare r m s).halted = s.halted := rfl
@[simp] theorem compare_haltInfo (r m : Byte) (s : State) : (compare r m s).haltInfo = s.haltInfo := rfl
@[simp] theorem compare_stackWrapCount (r m : Byte) (s : State) :
    (compare r m s).stackWrapCount = s.stackWrapCount := rfl
@[simp] theorem compare_lastStep (r m : Byte) (s : State) : (compare r m s).lastStep = s.lastStep := rfl
@[simp] theorem compare_mem (r m : Byte) (s : State) : (compare r m s).mem = s.mem := rfl
@[simp] theorem compare_cfg (r m : Byte) (s : State) : (compare r m s).cfg = s.cfg := rfl
@[simp] theorem compare_dbg (r m : Byte) (s : State) : (compare r m s).dbg = s.dbg := rfl
@[simp] theorem compare_faulted (r m : Byte) (s : State) : (compare r m s).faulted = s.faulted := rfl
@[simp] theorem compare_calls (r m : Byte) (s : State) : (compare r m s).calls = s.calls := rfl

@[simp] theorem bitTest_a (m : Byte) (s : State) : (bitTest m s).a = s.a := rfl
@[simp] theorem bitTest_x (m : Byte) (s : State) : (bitTest m s).x = s.x := rfl
@[simp] theorem bitTest_y (m : Byte) (s : State) : (bitTest m s).y = s.y := rfl
@[simp] theorem bitTest_sp (m : Byte) (s : State) : (bitTest m s).sp = s.sp := rfl
@[simp] theorem bitTest_pc (m : Byte) (s : State) : (bitTest m s).pc = s.pc := rfl
@[simp] theorem bitTest_p (m : Byte) (s : State) :
    (bitTest m s).p = { s.p with z := (s.a &&& m) == 0, n := m.getLsbD 7, v := m.getLsbD 6 } := rfl
@[simp] theorem bitTest_cycles (m : Byte) (s : State) : (bitTest m s).cycles = s.cycles := rfl
@[simp] theorem bitTest_instructions (m : Byte) (s : State) : (bitTest m s).instructions = s.instructions := rfl
@[simp] theorem bitTest_nmiPending (m : Byte) (s : State) : (bitTest m s).nmiPending = s.nmiPending := rfl
@[simp] theorem bitTest_irqPending (m : Byte) (s : State) : (bitTest m s).irqPending = s.irqPending := rfl
@[simp] theorem bitTest_halted (m : Byte) (s : State) : (bitTest m s).halted = s.halted := rfl
@[simp] theorem bitTest_haltInfo (m : Byte) (s : State) : (bitTest m s).haltInfo = s.haltInfo := rfl
@[simp] theorem bitTest_stackWrapCount (m : Byte) (s : State) : (bitTest m s).stackWrapCount = s.stackWrapCount := rfl
@[simp] theorem bitTest_lastStep (m : Byte) (s : State) : (bitTest m s).lastStep = s.lastStep := rfl
@[simp] theorem bitTest_mem (m : Byte) (s : State) : (bitTest m s).mem = s.mem := rfl
@[simp] theorem bitTest_cfg (m : Byte) (s : State) : (bitTest m s).cfg = s.cfg := rfl
@[simp] theorem bitTest_dbg (m : Byte) (s : State) : (bitTest m s).dbg = s.dbg := rfl
@[simp] theorem bitTest_faulted (m : Byte) (s : State) : (bitTest m s).faulted = s.faulted := rfl
@[simp] theorem bitTest_calls (m : Byte) (s : State) : (bitTest m s).calls = s.calls := rfl

@[simp] theorem completeStep_a (kind : StepKind) (before : State) (d : Decoded) (n : Nat) (w : Work) :
    (completeStep kind before d n w).a = w.st.a := rfl
@[simp] theorem completeStep_x (kind : StepKind) (before : State) (d : Decoded) (n : Nat) (w : Work) :
    (completeStep kind before d n w).x = w.st.x := rfl
@[simp] theorem completeStep_y (kind : StepKind) (before : State) (d : Decoded) (n : Nat) (w : Work) :
    (completeStep kind before d n w).y = w.st.y := rfl
@[simp] theorem completeStep_sp (kind : StepKind) (before : State) (d : Decoded) (n : Nat) (w : Work) :
    (completeStep kind before d n w).sp = w.st.sp := rfl
@[simp] theorem completeStep_pc (kind : StepKind) (before : State) (d : Decoded) (n : Nat) (w : Work) :
    (completeStep kind before d n w).pc = w.st.pc := rfl
@[simp] theorem completeStep_p (kind : StepKind) (before : State) (d : Decoded) (n : Nat) (w : Work) :
    (completeStep kind before d n w).p = w.st.p := rfl
@[simp] theorem completeStep_cycles (kind : StepKind) (before : State) (d : Decoded) (n : Nat) (w : Work) :
    (completeStep kind before d n w).cycles = w.st.cycles + n := rfl
@[simp] theorem completeStep_instructions (kind : StepKind) (before : State) (d : Decoded) (n : Nat) (w : Work) :
    (completeStep kind before d n w).instructions = if kind = .instruction then w.st.instructions + 1 else w.st.instructions := rfl
@[simp] theorem completeStep_nmiPending (kind : StepKind) (before : State) (d : Decoded) (n : Nat) (w : Work) :
    (completeStep kind before d n w).nmiPending = w.st.nmiPending := rfl
@[simp] theorem completeStep_irqPending (kind : StepKind) (before : State) (d : Decoded) (n : Nat) (w : Work) :
    (completeStep kind before d n w).irqPending = w.st.irqPending := rfl
@[simp] theorem completeStep_halted (kind : StepKind) (before : State) (d : Decoded) (n : Nat) (w : Work) :
    (completeStep kind before d n w).halted = w.st.halted := rfl
@[simp] theorem completeStep_haltInfo (kind : StepKind) (before : State) (d : Decoded) (n : Nat) (w : Work) :
    (completeStep kind before d n w).haltInfo = w.st.haltInfo := rfl
@[simp] theorem completeStep_stackWrapCount (kind : StepKind) (before : State) (d : Decoded) (n : Nat) (w : Work) :
    (completeStep kind before d n w).stackWrapCount = w.st.stackWrapCount := rfl
@[simp] theorem completeStep_lastStep (kind : StepKind) (before : State) (d : Decoded) (n : Nat) (w : Work) :
    (completeStep kind before d n w).lastStep = some (stepRecord kind before d n w) := rfl
@[simp] theorem completeStep_mem (kind : StepKind) (before : State) (d : Decoded) (n : Nat) (w : Work) :
    (completeStep kind before d n w).mem = w.st.mem := rfl
@[simp] theorem completeStep_cfg (kind : StepKind) (before : State) (d : Decoded) (n : Nat) (w : Work) :
    (completeStep kind before d n w).cfg = w.st.cfg := rfl
@[simp] theorem completeStep_dbg (kind : StepKind) (before : State) (d : Decoded) (n : Nat) (w : Work) :
    (completeStep kind before d n w).dbg = w.st.dbg := rfl
@[simp] theorem completeStep_faulted (kind : StepKind) (before : State) (d : Decoded) (n : Nat) (w : Work) :
    (completeStep kind before d n w).faulted = w.st.faulted := rfl
@[simp] theorem completeStep_calls (kind : StepKind) (before : State) (d : Decoded) (n : Nat) (w : Work) :
    (completeStep kind before d n w).calls = w.st.calls := rfl

@[simp] theorem resetTo_a (target : Word) (s : State) : (resetTo target s).a = s.a := rfl
@[simp] theorem resetTo_x (target : Word) (s : State) : (resetTo target s).x = s.x := rfl
@[simp] theorem resetTo_y (target : Word) (s : State) : (resetTo target s).y = s.y := rfl
@[simp] theorem resetTo_sp (target : Word) (s : State) : (resetTo target s).sp = s.cfg.spReset := rfl
@[simp] theorem resetTo_pc (target : Word) (s : State) : (resetTo target s).pc = target := rfl
@[simp] theorem resetTo_p (target : Word) (s : State) : (resetTo target s).p = { s.p with i := true } := rfl
@[simp] theorem resetTo_cycles (target : Word) (s : State) : (resetTo target s).cycles = 0 := rfl
@[simp] theorem resetTo_instructions (target : Word) (s : State) : (resetTo target s).instructions = 0 := rfl
@[simp] theorem resetTo_nmiPending (target : Word) (s : State) : (resetTo target s).nmiPending = false := rfl
@[simp] theorem resetTo_irqPending (target : Word) (s : State) : (resetTo target s).irqPending = false := rfl
@[simp] theorem resetTo_halted (target : Word) (s : State) : (resetTo target s).halted = false := rfl
@[simp] theorem resetTo_haltInfo (target : Word) (s : State) : (resetTo target s).haltInfo = none := rfl
@[simp] theorem resetTo_stackWrapCount (target : Word) (s : State) : (resetTo target s).stackWrapCount = 0 := rfl
@[simp] theorem resetTo_lastStep (target : Word) (s : State) : (resetTo target s).lastStep = none := rfl
@[simp] theorem resetTo_mem (target : Word) (s : State) : (resetTo target s).mem = s.mem := rfl
@[simp] theorem resetTo_cfg (target : Word) (s : State) : (resetTo target s).cfg = s.cfg := rfl
@[simp] theorem resetTo_dbg (target : Word) (s : State) : (resetTo target s).dbg = s.dbg := rfl
@[simp] theorem resetTo_faulted (target : Word) (s : State) : (resetTo target s).faulted = none := rfl
@[simp] theorem resetTo_calls (target : Word) (s : State) :
    (resetTo target s).calls = s.calls := rfl

@[simp] theorem irq_a (s : State) : (irq s).a = s.a := rfl
@[simp] theorem irq_x (s : State) : (irq s).x = s.x := rfl
@[simp] theorem irq_y (s : State) : (irq s).y = s.y := rfl
@[simp] theorem irq_sp (s : State) : (irq s).sp = s.sp := rfl
@[simp] theorem irq_pc (s : State) : (irq s).pc = s.pc := rfl
@[simp] theorem irq_p (s : State) : (irq s).p = s.p := rfl
@[simp] theorem irq_cycles (s : State) : (irq s).cycles = s.cycles := rfl
@[simp] theorem irq_instructions (s : State) : (irq s).instructions = s.instructions := rfl
@[simp] theorem irq_nmiPending (s : State) : (irq s).nmiPending = s.nmiPending := rfl
@[simp] theorem irq_irqPending (s : State) : (irq s).irqPending = true := rfl
@[simp] theorem irq_halted (s : State) : (irq s).halted = s.halted := rfl
@[simp] theorem irq_haltInfo (s : State) : (irq s).haltInfo = s.haltInfo := rfl
@[simp] theorem irq_stackWrapCount (s : State) : (irq s).stackWrapCount = s.stackWrapCount := rfl
@[simp] theorem irq_lastStep (s : State) : (irq s).lastStep = s.lastStep := rfl
@[simp] theorem irq_mem (s : State) : (irq s).mem = s.mem := rfl
@[simp] theorem irq_cfg (s : State) : (irq s).cfg = s.cfg := rfl
@[simp] theorem irq_dbg (s : State) : (irq s).dbg = s.dbg := rfl
@[simp] theorem irq_faulted (s : State) : (irq s).faulted = s.faulted := rfl
@[simp] theorem irq_calls (s : State) : (irq s).calls = s.calls := rfl

@[simp] theorem nmi_a (s : State) : (nmi s).a = s.a := rfl
@[simp] theorem nmi_x (s : State) : (nmi s).x = s.x := rfl
@[simp] theorem nmi_y (s : State) : (nmi s).y = s.y := rfl
@[simp] theorem nmi_sp (s : State) : (nmi s).sp = s.sp := rfl
@[simp] theorem nmi_pc (s : State) : (nmi s).pc = s.pc := rfl
@[simp] theorem nmi_p (s : State) : (nmi s).p = s.p := rfl
@[simp] theorem nmi_cycles (s : State) : (nmi s).cycles = s.cycles := rfl
@[simp] theorem nmi_instructions (s : State) : (nmi s).instructions = s.instructions := rfl
@[simp] theorem nmi_nmiPending (s : State) : (nmi s).nmiPending = true := rfl
@[simp] theorem nmi_irqPending (s : State) : (nmi s).irqPending = s.irqPending := rfl
@[simp] theorem nmi_halted (s : State) : (nmi s).halted = s.halted := rfl
@[simp] theorem nmi_haltInfo (s : State) : (nmi s).haltInfo = s.haltInfo := rfl
@[simp] theorem nmi_stackWrapCount (s : State) : (nmi s).stackWrapCount = s.stackWrapCount := rfl
@[simp] theorem nmi_lastStep (s : State) : (nmi s).lastStep = s.lastStep := rfl
@[simp] theorem nmi_mem (s : State) : (nmi s).mem = s.mem := rfl
@[simp] theorem nmi_cfg (s : State) : (nmi s).cfg = s.cfg := rfl
@[simp] theorem nmi_dbg (s : State) : (nmi s).dbg = s.dbg := rfl
@[simp] theorem nmi_faulted (s : State) : (nmi s).faulted = s.faulted := rfl
@[simp] theorem nmi_calls (s : State) : (nmi s).calls = s.calls := rfl

@[simp] theorem setFlag_a (f : FlagName) (value : Bool) (s : State) : (setFlag f value s).a = s.a := rfl
@[simp] theorem setFlag_x (f : FlagName) (value : Bool) (s : State) : (setFlag f value s).x = s.x := rfl
@[simp] theorem setFlag_y (f : FlagName) (value : Bool) (s : State) : (setFlag f value s).y = s.y := rfl
@[simp] theorem setFlag_sp (f : FlagName) (value : Bool) (s : State) : (setFlag f value s).sp = s.sp := rfl
@[simp] theorem setFlag_pc (f : FlagName) (value : Bool) (s : State) : (setFlag f value s).pc = s.pc := rfl
@[simp] theorem setFlag_p (f : FlagName) (value : Bool) (s : State) : (setFlag f value s).p = s.p.set f value := rfl
@[simp] theorem setFlag_cycles (f : FlagName) (value : Bool) (s : State) :
    (setFlag f value s).cycles = s.cycles := rfl
@[simp] theorem setFlag_instructions (f : FlagName) (value : Bool) (s : State) :
    (setFlag f value s).instructions = s.instructions := rfl
@[simp] theorem setFlag_nmiPending (f : FlagName) (value : Bool) (s : State) :
    (setFlag f value s).nmiPending = s.nmiPending := rfl
@[simp] theorem setFlag_irqPending (f : FlagName) (value : Bool) (s : State) :
    (setFlag f value s).irqPending = s.irqPending := rfl
@[simp] theorem setFlag_halted (f : FlagName) (value : Bool) (s : State) :
    (setFlag f value s).halted = s.halted := rfl
@[simp] theorem setFlag_haltInfo (f : FlagName) (value : Bool) (s : State) :
    (setFlag f value s).haltInfo = s.haltInfo := rfl
@[simp] theorem setFlag_stackWrapCount (f : FlagName) (value : Bool) (s : State) :
    (setFlag f value s).stackWrapCount = s.stackWrapCount := rfl
@[simp] theorem setFlag_lastStep (f : FlagName) (value : Bool) (s : State) :
    (setFlag f value s).lastStep = s.lastStep := rfl
@[simp] theorem setFlag_mem (f : FlagName) (value : Bool) (s : State) : (setFlag f value s).mem = s.mem := rfl
@[simp] theorem setFlag_cfg (f : FlagName) (value : Bool) (s : State) : (setFlag f value s).cfg = s.cfg := rfl
@[simp] theorem setFlag_dbg (f : FlagName) (value : Bool) (s : State) : (setFlag f value s).dbg = s.dbg := rfl
@[simp] theorem setFlag_faulted (f : FlagName) (value : Bool) (s : State) :
    (setFlag f value s).faulted = s.faulted := rfl
@[simp] theorem setFlag_calls (f : FlagName) (value : Bool) (s : State) :
    (setFlag f value s).calls = s.calls := rfl

@[simp] theorem State.mapDbg_a (f : Debugger → Debugger) (s : State) : (s.mapDbg f).a = s.a := rfl
@[simp] theorem State.mapDbg_x (f : Debugger → Debugger) (s : State) : (s.mapDbg f).x = s.x := rfl
@[simp] theorem State.mapDbg_y (f : Debugger → Debugger) (s : State) : (s.mapDbg f).y = s.y := rfl
@[simp] theorem State.mapDbg_sp (f : Debugger → Debugger) (s : State) : (s.mapDbg f).sp = s.sp := rfl
@[simp] theorem State.mapDbg_pc (f : Debugger → Debugger) (s : State) : (s.mapDbg f).pc = s.pc := rfl
@[simp] theorem State.mapDbg_p (f : Debugger → Debugger) (s : State) : (s.mapDbg f).p = s.p := rfl
@[simp] theorem State.mapDbg_cycles (f : Debugger → Debugger) (s : State) : (s.mapDbg f).cycles = s.cycles := rfl
@[simp] theorem State.mapDbg_instructions (f : Debugger → Debugger) (s : State) :
    (s.mapDbg f).instructions = s.instructions := rfl
@[simp] theorem State.mapDbg_nmiPending (f : Debugger → Debugger) (s : State) :
    (s.mapDbg f).nmiPending = s.nmiPending := rfl
@[simp] theorem State.mapDbg_irqPending (f : Debugger → Debugger) (s : State) :
    (s.mapDbg f).irqPending = s.irqPending := rfl
@[simp] theorem State.mapDbg_halted (f : Debugger → Debugger) (s : State) : (s.mapDbg f).halted = s.halted := rfl
@[simp] theorem State.mapDbg_haltInfo (f : Debugger → Debugger) (s : State) :
    (s.mapDbg f).haltInfo = s.haltInfo := rfl
@[simp] theorem State.mapDbg_stackWrapCount (f : Debugger → Debugger) (s : State) :
    (s.mapDbg f).stackWrapCount = s.stackWrapCount := rfl
@[simp] theorem State.mapDbg_lastStep (f : Debugger → Debugger) (s : State) :
    (s.mapDbg f).lastStep = s.lastStep := rfl
@[simp] theorem State.mapDbg_mem (f : Debugger → Debugger) (s : State) : (s.mapDbg f).mem = s.mem := rfl
@[simp] theorem State.mapDbg_cfg (f : Debugger → Debugger) (s : State) : (s.mapDbg f).cfg = s.cfg := rfl
@[simp] theorem State.mapDbg_dbg (f : Debugger → Debugger) (s : State) : (s.mapDbg f).dbg = f s.dbg := rfl
@[simp] theorem State.mapDbg_faulted (f : Debugger → Debugger) (s : State) : (s.mapDbg f).faulted = s.faulted := rfl
@[simp] theorem State.mapDbg_calls (f : Debugger → Debugger) (s : State) :
    (s.mapDbg f).calls = s.calls := rfl

/-- Mapping the state of a piece of work. -/
@[simp] theorem Work.mapState_st (f : State → State) (w : Work) : (w.mapState f).st = f w.st := rfl

@[simp] theorem Work.mapState_log (f : State → State) (w : Work) : (w.mapState f).log = w.log := rfl

@[simp] theorem Work.mapState_wrapped (f : State → State) (w : Work) : (w.mapState f).wrapped = w.wrapped := rfl

@[simp] theorem Work.start_st (s : State) (log : List BusEntry) : (Work.start s log).st = s := rfl

@[simp] theorem Work.start_log (s : State) (log : List BusEntry) : (Work.start s log).log = log := rfl

@[simp] theorem Work.start_wrapped (s : State) (log : List BusEntry) : (Work.start s log).wrapped = false := rfl

@[simp] theorem Work.advance_st (pc : Word) (n : Nat) (w : Work) :
    (w.advance pc n).st = { w.st with pc := pcAfter pc n } := rfl

@[simp] theorem Work.advance_log (pc : Word) (n : Nat) (w : Work) : (w.advance pc n).log = w.log := rfl

@[simp] theorem Work.advance_wrapped (pc : Word) (n : Nat) (w : Work) : (w.advance pc n).wrapped = w.wrapped := rfl

/-- Counting a wrap, as one record update. -/
theorem Work.countWrap_eq (wraps : Bool) (w : Work) :
    w.countWrap wraps =
      { st := { w.st with stackWrapCount := w.st.stackWrapCount + wraps.toNat }
        log := w.log, wrapped := w.wrapped || wraps } := by
  cases wraps <;> simp [Work.countWrap]

@[simp] theorem State.peek_completeStep (kind : StepKind) (before : State) (d : Decoded) (n : Nat) (w : Work) (a : Word) :
    (completeStep kind before d n w).peek a = w.st.peek a := rfl

@[simp] theorem State.lastCycles_completeStep (kind : StepKind) (before : State) (d : Decoded) (n : Nat) (w : Work) :
    (completeStep kind before d n w).lastCycles = n := rfl

end Sys2Proof.Machine
end

