-- ==== Sys2Proof/Laws/Memory.lean ====
section
/-! SUPPORT. The laws of the bytes behind the MemoryInterface: what a store does to every read, and that every memory
operation keeps the canonical form. -/

namespace Sys2Proof.Machine

theorem Memory.read_erase_same (m : List Host.Cell) (a : Nat) : Memory.read (Memory.erase m a) a = Memory.unlisted := by
  induction m with
  | nil => rfl
  | cons c rest ih =>
    by_cases h : c.1 = a <;> simp_all [Memory.erase, Memory.read]

theorem Memory.read_erase_other (m : List Host.Cell) (a b : Nat) (h : b ≠ a) :
    Memory.read (Memory.erase m a) b = Memory.read m b := by
  induction m with
  | nil => rfl
  | cons c rest ih =>
    have h' : a ≠ b := Ne.symm h
    by_cases hc : c.1 = a
    · subst hc; simp_all [Memory.erase, Memory.read]
    · simp_all [Memory.erase, Memory.read]

theorem Memory.read_insert_same (m : List Host.Cell) (a : Nat) (v : Byte) (h : ∀ c ∈ m, c.1 ≠ a) :
    Memory.read (Memory.insert m a v) a = v := by
  induction m with
  | nil => simp [Memory.insert, Memory.read]
  | cons c rest ih =>
    simp only [List.mem_cons, forall_eq_or_imp] at h
    simp only [Memory.insert]
    split <;> simp_all [Memory.read]

theorem Memory.read_insert_other (m : List Host.Cell) (a b : Nat) (v : Byte) (h : b ≠ a) :
    Memory.read (Memory.insert m a v) b = Memory.read m b := by
  induction m with
  | nil => simp [Memory.insert, Memory.read, Ne.symm h]
  | cons c rest ih =>
    simp only [Memory.insert]
    split <;> simp_all [Memory.read, Ne.symm h]

/-- A read after a store to the same address. -/
@[simp] theorem Memory.read_write_same (m : List Host.Cell) (a : Nat) (v : Byte) :
    Memory.read (Memory.write m a v) a = v := by
  unfold Memory.write
  split
  · next h => rw [Memory.read_erase_same, h]
  · exact Memory.read_insert_same _ _ _ fun c hc => by simp_all [Memory.erase]

/-- A read after a store to another address. -/
theorem Memory.read_write_other (m : List Host.Cell) (a b : Nat) (v : Byte) (h : b ≠ a) :
    Memory.read (Memory.write m a v) b = Memory.read m b := by
  unfold Memory.write
  split
  · exact Memory.read_erase_other m a b h
  · rw [Memory.read_insert_other _ _ _ _ h, Memory.read_erase_other m a b h]

theorem Memory.mem_insert (m : List Host.Cell) (a : Nat) (v : Byte) (c : Host.Cell) :
    c ∈ Memory.insert m a v ↔ c = (a, v) ∨ c ∈ m := by
  induction m with
  | nil => simp [Memory.insert]
  | cons d rest ih =>
    simp only [Memory.insert]
    split
    · simp only [List.mem_cons, ih]
      exact ⟨fun h => by rcases h with h | h | h <;> simp [h], fun h => by rcases h with h | h | h <;> simp [h]⟩
    · simp [List.mem_cons]

/-- The empty memory is in the canonical form. -/
theorem Memory.wf_nil : Memory.wf [] := by simp [Memory.wf]

/-- A store inside the address space keeps the canonical form. -/
theorem Memory.wf_write (m : List Host.Cell) (a : Nat) (v : Byte) (ha : a < 65536) (h : Memory.wf m) :
    Memory.wf (Memory.write m a v) := by
  obtain ⟨hp, hc⟩ := h
  have hpe : (Memory.erase m a).Pairwise (fun l r => l.1 < r.1) := hp.filter _
  have hce : ∀ c ∈ Memory.erase m a, c.1 < 65536 ∧ c.2 ≠ Memory.unlisted :=
    fun c hcm => hc c ((List.mem_filter.1 hcm).1)
  have hne : ∀ c ∈ Memory.erase m a, c.1 ≠ a := fun c hcm => by simp_all [Memory.erase]
  unfold Memory.write
  split
  · exact ⟨hpe, hce⟩
  · next hv =>
    refine ⟨?_, fun c hcm => ?_⟩
    · generalize Memory.erase m a = l at hpe hne
      clear hce hp hc m ha
      induction l with
      | nil => simp [Memory.insert]
      | cons d rest ih =>
        simp only [List.pairwise_cons] at hpe
        simp only [List.mem_cons, forall_eq_or_imp] at hne
        simp only [Memory.insert]
        split
        · next hlt =>
          refine List.pairwise_cons.2 ⟨fun c hcm => ?_, ih hpe.2 hne.2⟩
          rcases (Memory.mem_insert rest a v c).1 hcm with rfl | hcr
          · exact hlt
          · exact hpe.1 c hcr
        · next hge =>
          have hgt : a < d.1 := by have := hne.1; omega
          refine List.pairwise_cons.2 ⟨fun c hcm => ?_, List.pairwise_cons.2 hpe⟩
          rcases List.mem_cons.1 hcm with rfl | hcr
          · exact hgt
          · exact Nat.lt_trans hgt (hpe.1 c hcr)
    · rcases (Memory.mem_insert _ a v c).1 hcm with rfl | hcm
      · exact ⟨ha, hv⟩
      · exact hce c hcm

/-! ### The same on the state -/

@[simp] theorem State.peek_poke_same (s : State) (a : Word) (v : Byte) : (s.poke a v).peek a = v :=
  Memory.read_write_same s.mem a.toNat v

theorem State.peek_poke_other (s : State) (a b : Word) (v : Byte) (h : b ≠ a) : (s.poke a v).peek b = s.peek b :=
  Memory.read_write_other s.mem a.toNat b.toNat v fun e => h (BitVec.eq_of_toNat_eq e)

theorem State.peek_poke (s : State) (a b : Word) (v : Byte) :
    (s.poke a v).peek b = if b = a then v else s.peek b := by
  split
  · next h => rw [h]; simp
  · next h => exact State.peek_poke_other s a b v h

theorem State.wf_poke (s : State) (a : Word) (v : Byte) (h : Memory.wf s.mem) : Memory.wf (s.poke a v).mem :=
  Memory.wf_write s.mem a.toNat v a.isLt h

/-- `peek` reads `mem` alone. -/
theorem State.peek_congr {s t : State} (h : t.mem = s.mem) (a : Word) : t.peek a = s.peek a := by
  simp [State.peek, h]

end Sys2Proof.Machine
end

