-- ==== Sys2Proof/Laws/Bus.lean ====
section
/-! SUPPORT. What each bus and stack operation does, said once: the answer and the work it leaves, for the accesses
that succeed, and the fault of the one that fails. -/

namespace Sys2Proof.Machine

/-! ### One call of the MemoryInterface -/

/-- A read, answered or failed, changes nothing but what the collaborator has seen. -/
theorem busRead_state {a : Word} {s s' : State} {answer : Option Byte} (h : busRead a s = (answer, s')) :
    s' = { s with calls := s'.calls } := by
  unfold busRead at h
  split at h <;> simp_all <;> obtain ⟨-, rfl⟩ := h <;> rfl

/-- A read with no answer is one the MemoryInterface failed. -/
theorem busRead_none {a : Word} {s s' : State} (h : busRead a s = (none, s')) : ReadFailed s.cfg a s'.calls := by
  unfold busRead at h
  split at h <;> simp_all
  · next hr => obtain ⟨hf, rfl⟩ := h; exact .inr ⟨hr, s.calls, rfl, hf⟩
  · next hr => exact .inl hr

@[simp] theorem busRead_cell {a : Word} {s : State} (h : readAnswerOf s.cfg a = .cell) :
    busRead a s = (some (s.peek a), s) := by
  simp [busRead, h]

/-- A write, accepted or failed, stores the byte in a plain cell and nowhere else. -/
theorem busWrite_state {a : Word} {v : Byte} {s s' : State} {ok : Bool} (h : busWrite a v s = (ok, s')) :
    s' = { (if writeAnswerOf s.cfg a = .cell then s.poke a v else s) with calls := s'.calls } := by
  unfold busWrite at h
  split at h <;> simp_all <;> obtain ⟨-, rfl⟩ := h <;> rfl

/-- A write not accepted is one the MemoryInterface failed, and it stored nothing. -/
theorem busWrite_false {a : Word} {v : Byte} {s s' : State} (h : busWrite a v s = (false, s')) :
    WriteFailed s.cfg a s'.calls ∧ s' = { s with calls := s'.calls } := by
  unfold busWrite at h
  split at h <;> simp_all
  · next hw => obtain ⟨hf, rfl⟩ := h; exact ⟨.inr ⟨hw, s.calls, v, rfl, hf⟩, rfl⟩
  · next hw => exact .inl hw

@[simp] theorem busWrite_cell {a : Word} {v : Byte} {s : State} (h : writeAnswerOf s.cfg a = .cell) :
    busWrite a v s = (true, s.poke a v) := by
  simp [busWrite, h]

/-- A MemoryInterface that never fails failed no call. -/
theorem NeverFails.not_callFailed {c : Config} (h : NeverFails c) {kind : AccessKind} {a : Word}
    {calls : List BusCall} : ¬ CallFailed c kind a calls := by
  have hr : ¬ ReadFailed c a calls := by
    rintro (hf | ⟨he, earlier, -, hc⟩)
    · exact h.read a hf
    · rw [h.readAnswered a he] at hc; cases hc
  have hw : ¬ WriteFailed c a calls := by
    rintro (hf | ⟨he, earlier, v, -, hc⟩)
    · exact h.write a hf
    · rw [h.writeAccepted a he] at hc; cases hc
  cases kind <;> assumption

/-! ### The logged accesses -/

theorem memRead_ok {kind : AccessKind} {a : Word} {w u : Work} {v : Byte} (h : memRead kind a w = .ok (v, u)) :
    busRead a w.st = (some v, u.st) ∧ u = { w with st := u.st, log := w.log ++ [⟨kind, a, v⟩] } := by
  unfold memRead at h
  split at h
  · next v' s hb => obtain ⟨rfl, rfl⟩ := h; exact ⟨hb, rfl⟩
  · cases h

theorem memRead_error {kind : AccessKind} {a : Word} {w : Work} {f : Fault} (h : memRead kind a w = .error f) :
    ∃ s, busRead a w.st = (none, s) ∧ f = busFaultOf kind a s := by
  unfold memRead at h
  split at h
  · cases h
  · next s hb => cases h; exact ⟨s, hb, rfl⟩

@[simp] theorem memRead_cell {kind : AccessKind} {a : Word} {w : Work} (h : readAnswerOf w.st.cfg a = .cell) :
    memRead kind a w = .ok (w.st.peek a, { w with log := w.log ++ [⟨kind, a, w.st.peek a⟩] }) := by
  simp [memRead, h]

theorem memWrite_ok {kind : AccessKind} {a : Word} {v : Byte} {w u : Work} (h : memWrite kind a v w = .ok u) :
    busWrite a v w.st = (true, u.st) ∧ u = { w with st := u.st, log := w.log ++ [⟨kind, a, v⟩] } := by
  unfold memWrite at h
  split at h
  · next s hb => injection h with h; subst h; exact ⟨hb, rfl⟩
  · cases h

theorem memWrite_error {kind : AccessKind} {a : Word} {v : Byte} {w : Work} {f : Fault}
    (h : memWrite kind a v w = .error f) : ∃ s, busWrite a v w.st = (false, s) ∧ f = busFaultOf kind a s := by
  unfold memWrite at h
  split at h
  · cases h
  · next s hb => cases h; exact ⟨s, hb, rfl⟩

/-- The write to a plain cell. -/
@[simp] theorem memWrite_cell {kind : AccessKind} {a : Word} {v : Byte} {w : Work}
    (h : writeAnswerOf w.st.cfg a = .cell) :
    memWrite kind a v w = .ok { w with st := w.st.poke a v, log := w.log ++ [⟨kind, a, v⟩] } := by
  simp [memWrite, h]

/-- The carry decides nothing of a write: one that is accepted is accepted with another carry, which it keeps. -/
theorem memWrite_setC {kind : AccessKind} {a : Word} {v : Byte} {w u : Work} (c : Bool)
    (h : memWrite kind a v w = .ok u) : memWrite kind a v (w.mapState (setC c)) = .ok (u.mapState (setC c)) := by
  have hb := (memWrite_ok h).1
  have hc : busWrite a v (setC c w.st) = (true, setC c u.st) := by
    unfold busWrite at hb ⊢
    simp only [setC_cfg]
    split at hb <;> simp_all <;> first | exact congrArg (setC c) hb | exact ⟨hb.1, congrArg (setC c) hb.2⟩
  unfold memWrite
  rw [Work.mapState_st, hc, (memWrite_ok h).2]
  rfl

/-! ### Stack operations, in full -/

/-- A push in full: the store, the wrap count, then SP. -/
theorem push_eq (v : Byte) (w : Work) : push v w =
    (memWrite .stackWrite (stackAddr w.st.sp) v w).map fun u =>
      { st := { u.st with
          stackWrapCount := u.st.stackWrapCount + (u.st.sp == 0x00).toNat, sp := u.st.sp - 1 }
        log := u.log, wrapped := u.wrapped || (u.st.sp == 0x00) } := by
  unfold push
  cases memWrite .stackWrite (stackAddr w.st.sp) v w with
  | error f => rfl
  | ok u => simp [bind, Except.bind, Except.map, pure, Except.pure, Work.countWrap_eq, Work.mapState]

/-- A push onto plain RAM. -/
theorem push_ram (v : Byte) (w : Work) (h : StackIsRam w.st.cfg) : push v w = .ok
    { st := { w.st.poke (stackAddr w.st.sp) v with
        stackWrapCount := w.st.stackWrapCount + (w.st.sp == 0x00).toNat, sp := w.st.sp - 1 }
      log := w.log ++ [⟨.stackWrite, stackAddr w.st.sp, v⟩], wrapped := w.wrapped || (w.st.sp == 0x00) } := by
  rw [push_eq, memWrite_cell (h w.st.sp).2]
  rfl

/-- The work of a pull before its read: the wrap counted and SP incremented. -/
theorem pull_eq (w : Work) : pull w = memRead .stackRead (stackAddr (w.st.sp + 1))
    { st := { w.st with
        stackWrapCount := w.st.stackWrapCount + (w.st.sp == 0xFF).toNat, sp := w.st.sp + 1 }
      log := w.log, wrapped := w.wrapped || (w.st.sp == 0xFF) } := by
  unfold pull
  simp [Work.countWrap_eq, Work.mapState]

/-- A pull from plain RAM. -/
theorem pull_ram (w : Work) (h : StackIsRam w.st.cfg) : pull w = .ok (w.st.peek (stackAddr (w.st.sp + 1)),
    { st := { w.st with
        stackWrapCount := w.st.stackWrapCount + (w.st.sp == 0xFF).toNat, sp := w.st.sp + 1 }
      log := w.log ++ [⟨.stackRead, stackAddr (w.st.sp + 1), w.st.peek (stackAddr (w.st.sp + 1))⟩]
      wrapped := w.wrapped || (w.st.sp == 0xFF) }) := by
  rw [pull_eq, memRead_cell (by exact (h _).1)]
  rfl

/-- A stack address as a number. -/
theorem stackAddr_toNat (p : Byte) : (stackAddr p).toNat = 256 + p.toNat := by
  have := p.isLt
  simp only [stackAddr, zext16, BitVec.toNat_add, BitVec.toNat_setWidth]
  simp
  omega

/-- Distinct stack pointers give distinct stack addresses. -/
theorem stackAddr_inj {p q : Byte} (h : stackAddr p = stackAddr q) : p = q := by
  have h := congrArg BitVec.toNat h
  rw [stackAddr_toNat, stackAddr_toNat] at h
  exact BitVec.eq_of_toNat_eq (by omega)

/-! ### Words, put together and taken apart -/

theorem word_toNat (hi lo : Byte) : (word hi lo).toNat = hi.toNat * 256 + lo.toNat := by
  have hlo := lo.isLt
  rw [word, BitVec.toNat_append, Nat.mul_comm, Nat.shiftLeft_eq, Nat.mul_comm]
  exact (Nat.two_pow_add_eq_or_of_lt hlo hi.toNat).symm

theorem hi8_toNat (v : Word) : (hi8 v).toNat = v.toNat / 256 := by
  have := v.isLt
  simp only [hi8, BitVec.extractLsb'_toNat, Nat.shiftRight_eq_div_pow]
  omega

theorem lo8_toNat (v : Word) : (lo8 v).toNat = v.toNat % 256 := by
  simp [lo8, BitVec.extractLsb'_toNat]

@[simp] theorem word_hi8_lo8 (v : Word) : word (hi8 v) (lo8 v) = v :=
  BitVec.eq_of_toNat_eq (by rw [word_toNat, hi8_toNat, lo8_toNat]; omega)

@[simp] theorem hi8_word (hi lo : Byte) : hi8 (word hi lo) = hi :=
  BitVec.eq_of_toNat_eq (by have := lo.isLt; rw [hi8_toNat, word_toNat]; omega)

@[simp] theorem lo8_word (hi lo : Byte) : lo8 (word hi lo) = lo :=
  BitVec.eq_of_toNat_eq (by have := lo.isLt; rw [lo8_toNat, word_toNat]; omega)

theorem zext16_toNat (b : Byte) : (zext16 b).toNat = b.toNat := by
  have := b.isLt
  simp [zext16]
  omega

/-- The bits of a status byte (R26, R29). -/
theorem packP_bits : ∀ n v d i z c b : Bool,
    let x := packP ⟨n, v, false, d, i, z, c⟩ b
    x.getLsbD 7 = n ∧ x.getLsbD 6 = v ∧ x.getLsbD 5 = true ∧ x.getLsbD 4 = b ∧ x.getLsbD 3 = d ∧
      x.getLsbD 2 = i ∧ x.getLsbD 1 = z ∧ x.getLsbD 0 = c := by
  decide

/-- The status byte unpacked gives back the flags it was packed from, but for the stored B. -/
theorem unpackP_packP (p q : Flags) (b : Bool) : unpackP (packP p b) q = { p with b := q.b } := by
  obtain ⟨n, v, b', d, i, z, c⟩ := p
  obtain ⟨h7, h6, -, -, h3, h2, h1, h0⟩ := packP_bits n v d i z c b
  simp only [unpackP]
  congr

end Sys2Proof.Machine
end

