-- ==== Sys2Proof/Laws/Exec.lean ====
section
/-! SUPPORT. `exec` by class: every instruction is the run of its shape. -/

namespace Sys2Proof.Machine

/-- Every arm of `exec` is the run of its instruction's shape, so a proof splits the 16 shapes and not the 152
constructors. -/
theorem exec_eq_run (i : Instr) (s : State) : exec i s = (shapeOf i).run i.opcode s := by
  cases i <;> rfl

end Sys2Proof.Machine
end

