-- ==== Sys2Proof/Laws/Reach.lean ====
section
/-! SUPPORT. What any piece of a step's work can do, said once: `Reaches n w u` bounds the bus calls by `n` and lists
what is kept, and `FailsFrom s f` says what a bus failure leaves. Every operation, action and step is an instance. -/

namespace Sys2Proof.Machine

/-- The state no work of a step writes, and the stored B. -/
structure Held (s t : State) : Prop where
  system : SystemKept s t
  cycles : t.cycles = s.cycles
  instructions : t.instructions = s.instructions
  lastStep : t.lastStep = s.lastStep
  b : t.p.b = s.p.b

theorem Held.refl (s : State) : Held s s := ⟨⟨rfl, rfl, rfl, rfl, rfl, rfl, rfl⟩, rfl, rfl, rfl, rfl⟩

theorem Held.trans {s t u : State} (h : Held s t) (k : Held t u) : Held s u :=
  ⟨⟨k.1.1.trans h.1.1, k.1.2.trans h.1.2, k.1.3.trans h.1.3, k.1.4.trans h.1.4, k.1.5.trans h.1.5,
    k.1.6.trans h.1.6, k.1.7.trans h.1.7⟩, k.2.trans h.2, k.3.trans h.3, k.4.trans h.4, k.5.trans h.5⟩

/-- Work that led from `w` to `u` with at most `n` bus calls. -/
structure Reaches (n : Nat) (w u : Work) : Prop where
  held : Held w.st u.st
  wf : Memory.wf w.st.mem → Memory.wf u.st.mem
  log : ∃ l, u.log = w.log ++ l ∧ l.length ≤ n ∧ (IsReferenceRam w.st.cfg → u.st.mem = applyLog w.st.mem l)
  wrapCount : w.st.stackWrapCount ≤ u.st.stackWrapCount
  wrapped : u.wrapped = true ↔ w.wrapped = true ∨ w.st.stackWrapCount < u.st.stackWrapCount

theorem applyLog_append (m : List Host.Cell) (l k : List BusEntry) :
    applyLog m (l ++ k) = applyLog (applyLog m l) k := by
  simp [applyLog]

theorem Reaches.trans {n m : Nat} {w u v : Work} (h : Reaches n w u) (k : Reaches m u v) : Reaches (n + m) w v := by
  obtain ⟨l, hl, hn, hm⟩ := h.log
  obtain ⟨l', hl', hn', hm'⟩ := k.log
  refine ⟨h.held.trans k.held, fun x => k.wf (h.wf x), ⟨l ++ l', ?_, ?_, ?_⟩, Nat.le_trans h.wrapCount k.wrapCount, ?_⟩
  · simp [hl', hl]
  · simp; omega
  · intro hr
    rw [applyLog_append, ← hm hr]
    exact hm' (by rw [h.held.system.cfg]; exact hr)
  · have := h.wrapCount
    have := k.wrapCount
    rw [k.wrapped, h.wrapped]
    constructor
    · rintro ((hw | hlt) | hlt)
      · exact .inl hw
      · exact .inr (by omega)
      · exact .inr (by omega)
    · rintro (hw | hlt)
      · exact .inl (.inl hw)
      · by_cases hc : w.st.stackWrapCount < u.st.stackWrapCount
        · exact .inl (.inr hc)
        · exact .inr (by omega)

theorem Reaches.mono {n m : Nat} {w u : Work} (h : Reaches n w u) (hnm : n ≤ m) : Reaches m w u := by
  obtain ⟨l, hl, hn, hm⟩ := h.log
  exact ⟨h.held, h.wf, ⟨l, hl, by omega, hm⟩, h.wrapCount, h.wrapped⟩

/-- A change of registers and flags other than the stored B. -/
structure RegsOnly (s t : State) : Prop where
  held : Held s t
  mem : t.mem = s.mem
  stackWrapCount : t.stackWrapCount = s.stackWrapCount

theorem RegsOnly.reaches {w u : Work} (h : RegsOnly w.st u.st) (hl : u.log = w.log) (hw : u.wrapped = w.wrapped) :
    Reaches 0 w u :=
  ⟨h.held, fun x => h.mem ▸ x, ⟨[], by simp [hl], by simp, fun _ => by simp [applyLog, h.mem]⟩,
    Nat.le_of_eq h.stackWrapCount.symm, by rw [hw, h.stackWrapCount]; simp⟩

theorem Reaches.refl (w : Work) : Reaches 0 w w := RegsOnly.reaches ⟨Held.refl _, rfl, rfl⟩ rfl rfl

/-- A bus failure of an operation that began in `s`. -/
def FailsFrom (s : State) (f : Fault) : Prop :=
  ∃ kind a left, f = .busFault kind a left ∧ CallFailed s.cfg kind a left.calls ∧
    left.faulted = some ⟨kind, a⟩ ∧ Held s { left with faulted := s.faulted }

theorem FailsFrom.of_held {s t : State} {f : Fault} (h : Held s t) (k : FailsFrom t f) : FailsFrom s f := by
  obtain ⟨kind, a, left, rfl, hf, hm, hl⟩ := k
  refine ⟨kind, a, left, rfl, by rw [← h.system.cfg]; exact hf, hm, ?_⟩
  have := h.trans hl
  rw [h.system.faulted] at this
  exact this

/-- An operation's result: it reaches the work `out` picks from its answer, or fails. -/
def Tracks {β : Type} (n : Nat) (w : Work) (out : β → Work) : Except Fault β → Prop
  | .ok x => Reaches n w (out x)
  | .error f => FailsFrom w.st f

theorem Tracks.bind {β γ : Type} {n m : Nat} {w : Work} {out : β → Work} {out' : γ → Work} {r : Except Fault β}
    {k : β → Except Fault γ} (h : Tracks n w out r) (hk : ∀ x, Tracks m (out x) out' (k x)) :
    Tracks (n + m) w out' (r >>= k) := by
  cases r with
  | error f => exact h
  | ok x =>
    show Tracks (n + m) w out' (k x)
    have hx := hk x
    cases hkx : k x with
    | error f => rw [hkx] at hx; exact hx.of_held h.held
    | ok y => rw [hkx] at hx; exact Reaches.trans h hx

theorem Tracks.mono {β : Type} {n m : Nat} {w : Work} {out : β → Work} {r : Except Fault β} (h : Tracks n w out r)
    (hnm : n ≤ m) : Tracks m w out r := by
  cases r with
  | error f => exact h
  | ok x => exact Reaches.mono h hnm

theorem Tracks.pure {β : Type} {w : Work} {out : β → Work} {x : β} (h : RegsOnly w.st (out x).st)
    (hl : (out x).log = w.log) (hw : (out x).wrapped = w.wrapped) :
    Tracks 0 w out (Pure.pure x : Except Fault β) := RegsOnly.reaches h hl hw

theorem Tracks.same {β : Type} {w : Work} {out : β → Work} {x : β} (h : out x = w) :
    Tracks 0 w out (Pure.pure x : Except Fault β) := by
  subst h
  exact Reaches.refl (out x)

/-- An operation after a change that makes no bus call. -/
theorem Tracks.after {β : Type} {n : Nat} {w u : Work} {out : β → Work} {r : Except Fault β} (h : Reaches 0 w u)
    (k : Tracks n u out r) : Tracks n w out r := by
  cases r with
  | error f => exact FailsFrom.of_held h.held k
  | ok x => exact (Reaches.trans h k).mono (by omega)

/-! ### Bus and stack operations -/

theorem Held.of_calls {s s' : State} (h : s' = { s with calls := s'.calls }) : Held s s' := by
  rw [h]
  exact ⟨⟨rfl, rfl, rfl, rfl, rfl, rfl, rfl⟩, rfl, rfl, rfl, rfl⟩

/-- The fault of a call the MemoryInterface failed. -/
theorem failsFrom_busFaultOf {kind : AccessKind} {a : Word} {s s' : State} (h : CallFailed s.cfg kind a s'.calls)
    (hs : s' = { s with calls := s'.calls }) : FailsFrom s (busFaultOf kind a s') := by
  refine ⟨kind, a, _, rfl, h, rfl, ?_⟩
  have k := Held.of_calls hs
  rw [← k.system.faulted]
  exact k

theorem memRead_tracks (kind : AccessKind) (a : Word) (w : Work) (hk : kind ≠ .write) (hk' : kind ≠ .stackWrite) :
    Tracks 1 w Prod.snd (memRead kind a w) := by
  cases h : memRead kind a w with
  | error f =>
    obtain ⟨s, hb, rfl⟩ := memRead_error h
    refine failsFrom_busFaultOf ?_ (busRead_state hb)
    have := busRead_none hb
    cases kind <;> first | exact this | exact absurd rfl hk | exact absurd rfl hk'
  | ok x =>
    obtain ⟨v, u⟩ := x
    obtain ⟨hb, hu⟩ := memRead_ok h
    obtain ⟨n, hn⟩ : ∃ n, u.st = { w.st with calls := n } := ⟨_, busRead_state hb⟩
    rw [hn] at hu
    subst hu
    refine ⟨⟨⟨rfl, rfl, rfl, rfl, rfl, rfl, rfl⟩, rfl, rfl, rfl, rfl⟩, id, ⟨[⟨kind, a, v⟩], rfl, by simp, fun _ => ?_⟩,
      Nat.le_refl _, by simp⟩
    cases kind <;> simp_all [applyLog]

theorem memWrite_tracks (kind : AccessKind) (a : Word) (v : Byte) (w : Work) (hk : kind = .write ∨ kind = .stackWrite) :
    Tracks 1 w id (memWrite kind a v w) := by
  cases h : memWrite kind a v w with
  | error f =>
    obtain ⟨s, hb, rfl⟩ := memWrite_error h
    obtain ⟨hf, hs⟩ := busWrite_false hb
    refine failsFrom_busFaultOf ?_ hs
    rcases hk with rfl | rfl <;> exact hf
  | ok u =>
    obtain ⟨hb, hu⟩ := memWrite_ok h
    obtain ⟨n, hn⟩ : ∃ n, u.st =
        { (if writeAnswerOf w.st.cfg a = .cell then w.st.poke a v else w.st) with calls := n } :=
      ⟨_, busWrite_state hb⟩
    rw [hn] at hu
    subst hu
    refine ⟨?_, ?_, ⟨[⟨kind, a, v⟩], rfl, by simp, ?_⟩, ?_, ?_⟩ <;> simp only [id]
    · split <;> exact ⟨⟨rfl, rfl, rfl, rfl, rfl, rfl, rfl⟩, rfl, rfl, rfl, rfl⟩
    · intro hwf; split
      · exact State.wf_poke _ _ _ hwf
      · exact hwf
    · intro hr
      rw [if_pos (hr a).2]
      rcases hk with rfl | rfl <;> simp [applyLog]
    · split <;> exact Nat.le_refl _
    · split <;> simp

theorem readPair_tracks (kind : AccessKind) (lo hi : Word) (w : Work) (hk : kind ≠ .write) (hk' : kind ≠ .stackWrite) :
    Tracks 2 w Prod.snd (readPair kind lo hi w) :=
  (memRead_tracks kind lo w hk hk').bind fun x => (memRead_tracks kind hi x.2 hk hk').bind (m := 0) fun y =>
    Tracks.same (x := (word y.1 x.1, y.2)) rfl

theorem push_tracks (v : Byte) (w : Work) : Tracks 1 w id (push v w) := by
  rw [push_eq]
  have h := memWrite_tracks .stackWrite (stackAddr w.st.sp) v w (.inr rfl)
  cases hm : memWrite .stackWrite (stackAddr w.st.sp) v w with
  | error f => rw [hm] at h; exact h
  | ok u =>
    rw [hm] at h
    refine Reaches.trans (m := 0) h ⟨⟨⟨rfl, rfl, rfl, rfl, rfl, rfl, rfl⟩, rfl, rfl, rfl, rfl⟩, id,
      ⟨[], by simp, by simp, fun _ => rfl⟩, by simp, ?_⟩
    show (u.wrapped || (u.st.sp == 0x00)) = true ↔
      u.wrapped = true ∨ u.st.stackWrapCount < u.st.stackWrapCount + (u.st.sp == 0x00).toNat
    generalize (u.st.sp == 0x00) = c
    cases c <;> simp

theorem pull_tracks (w : Work) : Tracks 1 w Prod.snd (pull w) := by
  rw [pull_eq]
  refine Tracks.after ?_ (memRead_tracks .stackRead _ _ (by simp) (by simp))
  refine ⟨⟨⟨rfl, rfl, rfl, rfl, rfl, rfl, rfl⟩, rfl, rfl, rfl, rfl⟩, id,
    ⟨[], by simp, by simp, fun _ => rfl⟩, by simp, ?_⟩
  generalize (w.st.sp == 0xFF) = c
  cases c <;> simp

theorem pushWord_tracks (v : Word) (w : Work) : Tracks 2 w id (pushWord v w) :=
  (push_tracks (hi8 v) w).bind fun u => push_tracks (lo8 v) u

theorem pullWord_tracks (w : Work) : Tracks 2 w Prod.snd (pullWord w) :=
  (pull_tracks w).bind fun x => (pull_tracks x.2).bind (m := 0) fun y =>
    Tracks.same (x := (word y.1 x.1, y.2)) rfl

theorem interruptEntry_tracks (vector : Word) (brk : Bool) (w : Work) : Tracks 5 w id (interruptEntry vector brk w) := by
  refine Tracks.bind (n := 2) (m := 3) (pushWord_tracks w.st.pc w) fun u => ?_
  refine Tracks.bind (n := 1) (m := 2) (push_tracks (packP u.st.p brk) u) fun v => ?_
  refine Tracks.after (u := v.mapState fun s => { s with p := { s.p with i := true } })
    (RegsOnly.reaches ⟨⟨⟨rfl, rfl, rfl, rfl, rfl, rfl, rfl⟩, rfl, rfl, rfl, rfl⟩, rfl, rfl⟩ rfl rfl) ?_
  exact Tracks.bind (m := 0) (readPair_tracks .vector vector (vector + 1) _ (by simp) (by simp)) fun _ =>
    Tracks.pure ⟨⟨⟨rfl, rfl, rfl, rfl, rfl, rfl, rfl⟩, rfl, rfl, rfl, rfl⟩, rfl, rfl⟩ rfl rfl

theorem interruptReturn_tracks (w : Work) : Tracks 3 w id (interruptReturn w) := by
  refine Tracks.bind (n := 1) (m := 2) (pull_tracks w) fun x => ?_
  refine Tracks.after (u := x.2.mapState fun s => { s with p := unpackP x.1 s.p })
    (RegsOnly.reaches ⟨⟨⟨rfl, rfl, rfl, rfl, rfl, rfl, rfl⟩, rfl, rfl, rfl, rfl⟩, rfl, rfl⟩ rfl rfl) ?_
  exact Tracks.bind (m := 0) (pullWord_tracks _) fun _ =>
    Tracks.pure ⟨⟨⟨rfl, rfl, rfl, rfl, rfl, rfl, rfl⟩, rfl, rfl, rfl, rfl⟩, rfl, rfl⟩ rfl rfl

theorem resolve_tracks (f : EaForm) (w : Work) : Tracks 2 w (fun x => x.2.2) (resolve f w) := by
  cases f
  case ind b1 b2 =>
    exact Tracks.bind (m := 0) (readPair_tracks .read _ _ w (by simp) (by simp)) fun _ => Tracks.same rfl
  case izx b1 =>
    exact Tracks.bind (m := 0) (readPair_tracks .read _ _ w (by simp) (by simp)) fun _ => Tracks.same rfl
  case izy b1 =>
    exact Tracks.bind (m := 0) (readPair_tracks .read _ _ w (by simp) (by simp)) fun _ => Tracks.same rfl
  all_goals exact (Reaches.refl w).mono (by omega)

/-- A pointer read changes no register: `resolve` leaves the state but for what the
collaborator has seen. -/
theorem resolve_ok {f : EaForm} {w u : Work} {ea : Word} {crossed : Bool} (h : resolve f w = .ok (ea, crossed, u)) :
    u.st = { w.st with calls := u.st.calls } ∧ u.wrapped = w.wrapped := by
  have pair : ∀ {lo hi : Word} {w u : Work} {v : Word}, readPair .read lo hi w = .ok (v, u) →
      u.st = { w.st with calls := u.st.calls } ∧ u.wrapped = w.wrapped := by
    intro lo hi w u v h
    unfold readPair at h
    cases h1 : memRead .read lo w with
    | error f => rw [h1] at h; cases h
    | ok x =>
      obtain ⟨v1, w1⟩ := x
      rw [h1] at h
      cases h2 : memRead .read hi w1 with
      | error f =>
        simp only [bind, Except.bind, h2] at h
        cases h
      | ok y =>
        obtain ⟨v2, w2⟩ := y
        simp only [bind, Except.bind, h2, pure, Except.pure] at h
        injection h with h
        injection h with h h'
        subst h'
        obtain ⟨hb1, hw1⟩ := memRead_ok h1
        obtain ⟨hb2, hw2⟩ := memRead_ok h2
        have e1 := busRead_state hb1
        have e2 := busRead_state hb2
        rw [e1] at e2
        exact ⟨e2, by rw [hw2, hw1]⟩
  have viaPair : ∀ {lo hi : Word} {k : Word × Work → Word × Bool × Work} (_ : ∀ x, (k x).2.2 = x.2),
      (readPair .read lo hi w).map k = .ok (ea, crossed, u) →
      u.st = { w.st with calls := u.st.calls } ∧ u.wrapped = w.wrapped := by
    intro lo hi k hk h
    cases h1 : readPair .read lo hi w with
    | error f => rw [h1] at h; cases h
    | ok x =>
      rw [h1] at h
      injection h with h
      have := hk x
      rw [h] at this
      simp only at this
      subst this
      exact pair h1
  have mapEq : ∀ (r : Except Fault (Word × Work)) (k : Word × Work → Word × Bool × Work),
      (r >>= fun x => (Pure.pure (k x) : Except Fault _)) = r.map k := by
    intro r k; cases r <;> rfl
  cases f
  case ind b1 b2 => exact viaPair (k := fun x => (x.1, false, x.2)) (fun _ => rfl) ((mapEq _ _).symm.trans h)
  case izx b1 => exact viaPair (k := fun x => (x.1, false, x.2)) (fun _ => rfl) ((mapEq _ _).symm.trans h)
  case izy b1 =>
    exact viaPair (k := fun x => (indexed x.1 x.2.st.y, crosses x.1 x.2.st.y, x.2)) (fun _ => rfl)
      ((mapEq _ _).symm.trans h)
  all_goals
    simp only [resolve] at h
    injection h with h
    injection h with h h'
    injection h' with h' h''
    subst h''
    exact ⟨rfl, rfl⟩

end Sys2Proof.Machine
end

