-- ==== Sys2Proof/Laws/Steps.lean ====
section
/-! SUPPORT. What an instruction, a service and a step can do: the inversion lemmas `exec_next`, `exec_fault`,
`step_next` and `step_fault`, which later proofs cite instead of unfolding the engine. -/

namespace Sys2Proof.Machine

/-! ### Actions on registers and flags -/

theorem regsOnly_refl (s : State) : RegsOnly s s := ⟨Held.refl s, rfl, rfl⟩

theorem readAction_regsOnly (op : ReadOp) (v : Byte) (s : State) : RegsOnly s (readAction op v s) := by
  cases op
  case adc =>
    show RegsOnly s (actAdc v s)
    unfold actAdc
    split <;> exact ⟨⟨⟨rfl, rfl, rfl, rfl, rfl, rfl, rfl⟩, rfl, rfl, rfl, rfl⟩, rfl, rfl⟩
  all_goals exact ⟨⟨⟨rfl, rfl, rfl, rfl, rfl, rfl, rfl⟩, rfl, rfl, rfl, rfl⟩, rfl, rfl⟩

theorem inherentAction_regsOnly (op : InherentOp) (s : State) : RegsOnly s (inherentAction op s) := by
  cases op <;> exact ⟨⟨⟨rfl, rfl, rfl, rfl, rfl, rfl, rfl⟩, rfl, rfl, rfl, rfl⟩, rfl, rfl⟩

theorem modifyAction_regsOnly (op : ModifyOp) (v : Byte) (s : State) : RegsOnly s (modifyAction op v s).2 := by
  cases op <;> exact ⟨⟨⟨rfl, rfl, rfl, rfl, rfl, rfl, rfl⟩, rfl, rfl, rfl, rfl⟩, rfl, rfl⟩

theorem RegsOnly.trans {s t u : State} (h : RegsOnly s t) (k : RegsOnly t u) : RegsOnly s u :=
  ⟨h.held.trans k.held, k.mem.trans h.mem, k.stackWrapCount.trans h.stackWrapCount⟩

theorem setNZ_regsOnly (v : Byte) (s : State) : RegsOnly s (setNZ v s) :=
  ⟨⟨⟨rfl, rfl, rfl, rfl, rfl, rfl, rfl⟩, rfl, rfl, rfl, rfl⟩, rfl, rfl⟩

theorem modifyA_regsOnly (op : ModifyOp) (s : State) : RegsOnly s (modifyA (modifyAction op) s) :=
  (modifyAction_regsOnly op s.a s).trans
    ⟨⟨⟨rfl, rfl, rfl, rfl, rfl, rfl, rfl⟩, rfl, rfl, rfl, rfl⟩, rfl, rfl⟩

/-- Work whose state changed in registers and flags alone. -/
theorem RegsOnly.tracks {w : Work} {s : State} {n : Nat} (h : RegsOnly w.st s) :
    Tracks 0 w Prod.snd (.ok (n, { w with st := s }) : Except Fault (Nat × Work)) :=
  RegsOnly.reaches h rfl rfl

/-! ### The semantic actions -/

theorem readAct_tracks (op : ReadOp) (ea : Word) (w : Work) : Tracks 1 w Prod.snd (readAct (readAction op) ea w) :=
  Tracks.bind (m := 0) (memRead_tracks .read ea w (by simp) (by simp)) fun x =>
    RegsOnly.tracks (readAction_regsOnly op x.1 x.2.st)

theorem writeAct_tracks (r : StoreReg) (ea : Word) (w : Work) : Tracks 1 w Prod.snd (writeAct (storeValue r) ea w) :=
  Tracks.bind (m := 0) (memWrite_tracks .write ea _ w (.inl rfl)) fun u => Tracks.same (x := (0, u)) rfl

/-- What a read-modify-write action makes of the state: C alone, and only where it shifts. -/
theorem modifyAction_state (op : ModifyOp) (v : Byte) (s : State) :
    (modifyAction op v s).2 = setC (modifyAction op v s).2.p.c s := by cases op <;> rfl

theorem modifyAct_tracks (op : ModifyOp) (ea : Word) (w : Work) :
    Tracks 2 w Prod.snd (modifyAct (modifyAction op) ea w) := by
  refine Tracks.bind (n := 1) (m := 1) (memRead_tracks .read ea w (by simp) (by simp)) fun x => ?_
  refine Tracks.after (u := { x.2 with st := (modifyAction op x.1 x.2.st).2 })
    (RegsOnly.reaches (modifyAction_regsOnly op x.1 x.2.st) rfl rfl) ?_
  exact Tracks.bind (m := 0) (memWrite_tracks .write ea _ _ (.inl rfl)) fun u =>
    RegsOnly.tracks (setNZ_regsOnly _ u.st)

theorem actJmp_tracks (ea : Word) (w : Work) : Tracks 0 w Prod.snd (actJmp ea w) :=
  RegsOnly.tracks ⟨⟨⟨rfl, rfl, rfl, rfl, rfl, rfl, rfl⟩, rfl, rfl, rfl, rfl⟩, rfl, rfl⟩

theorem actJsr_tracks (ea : Word) (w : Work) : Tracks 2 w Prod.snd (actJsr ea w) :=
  Tracks.bind (m := 0) (pushWord_tracks (w.st.pc - 1) w) fun _ =>
    RegsOnly.tracks ⟨⟨⟨rfl, rfl, rfl, rfl, rfl, rfl, rfl⟩, rfl, rfl, rfl, rfl⟩, rfl, rfl⟩

theorem actRts_tracks (w : Work) : Tracks 2 w Prod.snd (actRts w) :=
  Tracks.bind (m := 0) (pullWord_tracks w) fun _ =>
    RegsOnly.tracks ⟨⟨⟨rfl, rfl, rfl, rfl, rfl, rfl, rfl⟩, rfl, rfl, rfl, rfl⟩, rfl, rfl⟩

theorem actBrk_tracks (w : Work) : Tracks 5 w Prod.snd (actBrk w) :=
  Tracks.bind (m := 0) (interruptEntry_tracks irqVector true w) fun u => Tracks.same (x := (0, u)) rfl

theorem actRti_tracks (w : Work) : Tracks 3 w Prod.snd (actRti w) :=
  Tracks.bind (m := 0) (interruptReturn_tracks w) fun u => Tracks.same (x := (0, u)) rfl

theorem actPha_tracks (w : Work) : Tracks 1 w Prod.snd (actPha w) :=
  Tracks.bind (m := 0) (push_tracks w.st.a w) fun u => Tracks.same (x := (0, u)) rfl

theorem actPhp_tracks (w : Work) : Tracks 1 w Prod.snd (actPhp w) :=
  Tracks.bind (m := 0) (push_tracks (packP w.st.p true) w) fun u => Tracks.same (x := (0, u)) rfl

theorem actPla_tracks (w : Work) : Tracks 1 w Prod.snd (actPla w) :=
  Tracks.bind (m := 0) (pull_tracks w) fun _ =>
    RegsOnly.tracks ⟨⟨⟨rfl, rfl, rfl, rfl, rfl, rfl, rfl⟩, rfl, rfl, rfl, rfl⟩, rfl, rfl⟩

theorem actPlp_tracks (w : Work) : Tracks 1 w Prod.snd (actPlp w) :=
  Tracks.bind (m := 0) (pull_tracks w) fun _ =>
    RegsOnly.tracks ⟨⟨⟨rfl, rfl, rfl, rfl, rfl, rfl, rfl⟩, rfl, rfl, rfl, rfl⟩, rfl, rfl⟩

theorem branch_tracks (taken : Bool) (b1 : Byte) (w : Work) :
    Tracks 0 w Prod.snd (.ok (branch taken b1 w) : Except Fault (Nat × Work)) := by
  unfold branch
  split
  · exact RegsOnly.tracks ⟨⟨⟨rfl, rfl, rfl, rfl, rfl, rfl, rfl⟩, rfl, rfl, rfl, rfl⟩, rfl, rfl⟩
  · exact Tracks.same (x := (0, w)) rfl

/-! ### An instruction -/

theorem fetchLog_length (a : Word) (l : List Byte) : (fetchLog a l).length = l.length := by
  induction l generalizing a with
  | nil => rfl
  | cons b rest ih => simp [fetchLog, ih]

/-- The start of an instruction's work: nothing but its fetches is logged, and none of them stores. -/
theorem applyLog_fetchLog (m : List Host.Cell) (a : Word) (l : List Byte) : applyLog m (fetchLog a l) = m := by
  induction l generalizing a with
  | nil => rfl
  | cons b rest ih => exact ih (a + 1)

/-- What an instruction that completes leaves: `n` cycles, and the work `w`. -/
structure Executes (opcode : Byte) (operands : List Byte) (n : Nat) (w : Work) (s t : State) : Prop where
  ends : t = completeStep .instruction s (decodedOf opcode operands) n w
  works : Reaches 5 (Work.start s (fetchLog s.pc (opcode :: operands))) w
  bounded : w.log.length ≤ 7

/-- The result of the engine's frame: the instruction executes, with `n` cycles from `costs`, or a bus call fails. -/
def Runs (opcode : Byte) (operands : List Byte) (costs : Nat → Prop) (s : State) :
    Host.Outcome State Fault Refusal → Prop
  | .next t => ∃ n w, Executes opcode operands n w s t ∧ costs n
  | .fault f => FailsFrom s f
  | .refused _ => False

theorem runInstr_runs {α : Type} {opcode : Byte} {operands : List Byte} {locate : Work → Except Fault (α × Bool × Work)}
    {act : α → Work → Except Fault (Nat × Work)} {s : State} {costs : Nat → Prop} (l m : Nat)
    (hl : ∀ w, Tracks l w (fun x => x.2.2) (locate w)) (hm : ∀ x w, Tracks m w Prod.snd (act x w))
    (hc : ∀ x w extra u crossed, act x w = .ok (extra, u) → costs (cycleCount (table opcode) extra crossed))
    (h5 : l + m ≤ 5) (h7 : 1 + operands.length + l + m ≤ 7) :
    Runs opcode operands costs s (runInstr opcode operands locate act s) := by
  have h1 := hl (Work.start s (fetchLog s.pc (opcode :: operands)))
  unfold runInstr
  cases hloc : locate (Work.start s (fetchLog s.pc (opcode :: operands))) with
  | error f => rw [hloc] at h1; exact h1
  | ok x =>
    obtain ⟨place, crossed, w⟩ := x
    rw [hloc] at h1
    have h2 : Tracks m w Prod.snd (act place (w.advance s.pc (table opcode).length)) :=
      Tracks.after (u := w.advance s.pc (table opcode).length)
        (RegsOnly.reaches ⟨⟨⟨rfl, rfl, rfl, rfl, rfl, rfl, rfl⟩, rfl, rfl, rfl, rfl⟩, rfl, rfl⟩ rfl rfl) (hm place _)
    show Runs opcode operands costs s (outcomeOf (act place (w.advance s.pc (table opcode).length) >>= _))
    cases hact : act place (w.advance s.pc (table opcode).length) with
    | error f => rw [hact] at h2; exact FailsFrom.of_held h1.held h2
    | ok y =>
      obtain ⟨extra, u⟩ := y
      rw [hact] at h2
      have h3 := Reaches.trans h1 h2
      refine ⟨_, u, ⟨rfl, h3.mono h5, ?_⟩, hc _ _ _ _ crossed hact⟩
      obtain ⟨k, hk, hn, -⟩ := h3.log
      rw [hk]
      simp only [Work.start_log, List.length_append, fetchLog_length, List.length_cons]
      omega

theorem runPlain_runs {opcode : Byte} {operands : List Byte} {act : Work → Except Fault (Nat × Work)} {s : State}
    {costs : Nat → Prop} (m : Nat) (hm : ∀ w, Tracks m w Prod.snd (act w))
    (hc : ∀ w extra u crossed, act w = .ok (extra, u) → costs (cycleCount (table opcode) extra crossed))
    (h5 : m ≤ 5) (h7 : 1 + operands.length + m ≤ 7) :
    Runs opcode operands costs s (runPlain opcode operands act s) :=
  runInstr_runs 0 m (fun w => Tracks.same (x := ((), false, w)) rfl) (fun _ => hm) (fun _ => hc) (by omega) (by omega)

theorem eaBytes_length (f : EaForm) : (eaBytes f).length ≤ 2 := by cases f <;> simp [eaBytes]

theorem runEa_runs {opcode : Byte} {f : EaForm} {act : Word → Work → Except Fault (Nat × Work)} {s : State}
    {costs : Nat → Prop} (m : Nat) (hm : ∀ ea w, Tracks m w Prod.snd (act ea w))
    (hc : ∀ ea w extra u crossed, act ea w = .ok (extra, u) → costs (cycleCount (table opcode) extra crossed))
    (h2 : m ≤ 2) : Runs opcode (eaBytes f) costs s (runEa opcode f act s) :=
  runInstr_runs 2 m (resolve_tracks f) hm hc (by omega) (by have := eaBytes_length f; omega)

/-! ### The cycle counts (R160 to R162) -/

/-- Every entry's cost with a page penalty lies between 2 and 7. -/
theorem cycleCount_bounds : ∀ (b : Byte) (crossed : Bool),
    2 ≤ cycleCount (table b) 0 crossed ∧ cycleCount (table b) 0 crossed ≤ 7 := by
  decide +kernel

/-- Actions other than a branch's cost nothing extra. -/
theorem bind_pure_extra {β : Type} {r : Except Fault β} {g : β → Work} {extra : Nat} {u : Work}
    (h : (r >>= fun x => (.ok (0, g x) : Except Fault (Nat × Work))) = .ok (extra, u)) : extra = 0 := by
  cases r with
  | error f => cases h
  | ok x => injection h with h; injection h with h h'; exact h.symm

theorem branch_extra (taken : Bool) (b1 : Byte) (w : Work) : (branch taken b1 w).1 ≤ 2 := by
  unfold branch
  split
  · dsimp only; split <;> omega
  · simp

/-! ### exec -/

/-- The operand bytes an instruction of a shape has. -/
def shapeOperands : Shape → List Byte
  | .read _ f => readBytes f
  | .write _ f => eaBytes f
  | .modify _ f => eaBytes f
  | .branch _ b1 => [b1]
  | .jmp f => eaBytes f
  | .jsr b1 b2 => [b1, b2]
  | .brk signature => [signature]
  | _ => []

theorem shapeOperands_eq (i : Instr) : i.operands = shapeOperands (shapeOf i) := by cases i <;> rfl

/-- A branch's entry (R96). -/
theorem branch_entry (i : Instr) (op : BranchOp) (b1 : Byte) (h : shapeOf i = .branch op b1) :
    (table i.opcode).length = 2 ∧ (table i.opcode).baseCycles = 2 ∧ (table i.opcode).penalty = .branch := by
  cases i <;> first | exact Shape.noConfusion h | (simp only [Instr.opcode]; decide)

/-- The cost of an executed instruction lies between 2 and 7 cycles. -/
def ordinaryCost (n : Nat) : Prop := 2 ≤ n ∧ n ≤ 7

theorem ordinaryCost_of_zero {opcode : Byte} {extra : Nat} {crossed : Bool} (h : extra = 0) :
    ordinaryCost (cycleCount (table opcode) extra crossed) := h ▸ cycleCount_bounds opcode crossed

/-- A documented instruction executes at an ordinary cost, or one of its bus calls fails. -/
theorem exec_runs (i : Instr) (s : State) (h : ∀ opcode, i ≠ .undefined opcode) :
    Runs i.opcode i.operands ordinaryCost s (exec i s) := by
  have hu : ∀ opcode, shapeOf i ≠ .undefined opcode := by
    intro opcode hs
    cases i <;> first | exact Shape.noConfusion hs | exact h _ rfl
  rw [exec_eq_run, shapeOperands_eq i]
  have hb := branch_entry i
  cases hs : shapeOf i with
  | read op f =>
    cases f with
    | imm b1 =>
      exact runPlain_runs 0 (fun w => RegsOnly.tracks (readAction_regsOnly op b1 w.st))
        (fun w extra u crossed h => ordinaryCost_of_zero (by injection h with h; injection h with h h'; exact h.symm))
        (by omega) (by simp [readBytes, shapeOperands])
    | ea f =>
      exact runEa_runs 1 (readAct_tracks op) (fun ea w extra u crossed h => ordinaryCost_of_zero (bind_pure_extra h))
        (by omega)
  | write r f =>
    exact runEa_runs 1 (writeAct_tracks r) (fun ea w extra u crossed h => ordinaryCost_of_zero (bind_pure_extra h))
      (by omega)
  | modify op f =>
    refine runEa_runs 2 (modifyAct_tracks op) (fun ea w extra u crossed h => ordinaryCost_of_zero ?_) (by omega)
    unfold modifyAct at h
    cases hr : memRead .read ea w with
    | error f => rw [hr] at h; cases h
    | ok x => rw [hr] at h; exact bind_pure_extra h
  | accumulator op =>
    exact runPlain_runs 0 (fun w => RegsOnly.tracks (modifyA_regsOnly op w.st))
      (fun w extra u crossed h => ordinaryCost_of_zero (by injection h with h; injection h with h h'; exact h.symm))
      (by omega) (by simp [shapeOperands])
  | inherent op =>
    exact runPlain_runs 0 (fun w => RegsOnly.tracks (inherentAction_regsOnly op w.st))
      (fun w extra u crossed h => ordinaryCost_of_zero (by injection h with h; injection h with h h'; exact h.symm))
      (by omega) (by simp [shapeOperands])
  | branch op b1 =>
    refine runPlain_runs (act := fun w => .ok (branch (branchCondition op w.st.p) b1 w)) 0
      (fun w => branch_tracks _ b1 w) (fun w extra u crossed h => ?_) (by omega)
      (by simp [shapeOperands])
    injection h with h
    have he : extra ≤ 2 := by
      have := branch_extra (branchCondition op w.st.p) b1 w
      rw [h] at this
      exact this
    obtain ⟨-, hc, hp⟩ := hb op b1 hs
    simp only [ordinaryCost, cycleCount, hc, hp]
    simp
    omega
  | jmp f =>
    exact runEa_runs 0 actJmp_tracks
      (fun ea w extra u crossed h => ordinaryCost_of_zero (by injection h with h; injection h with h h'; exact h.symm))
      (by omega)
  | jsr b1 b2 =>
    exact runEa_runs (f := .abs b1 b2) 2 actJsr_tracks
      (fun ea w extra u crossed h => ordinaryCost_of_zero (bind_pure_extra h)) (by omega)
  | pha =>
    exact runPlain_runs 1 actPha_tracks (fun w extra u crossed h => ordinaryCost_of_zero (bind_pure_extra h))
      (by omega) (by simp [shapeOperands])
  | php =>
    exact runPlain_runs 1 actPhp_tracks (fun w extra u crossed h => ordinaryCost_of_zero (bind_pure_extra h))
      (by omega) (by simp [shapeOperands])
  | pla =>
    exact runPlain_runs 1 actPla_tracks (fun w extra u crossed h => ordinaryCost_of_zero (bind_pure_extra h))
      (by omega) (by simp [shapeOperands])
  | plp =>
    exact runPlain_runs 1 actPlp_tracks (fun w extra u crossed h => ordinaryCost_of_zero (bind_pure_extra h))
      (by omega) (by simp [shapeOperands])
  | rts =>
    exact runPlain_runs 2 actRts_tracks (fun w extra u crossed h => ordinaryCost_of_zero (bind_pure_extra h))
      (by omega) (by simp [shapeOperands])
  | rti =>
    exact runPlain_runs 3 actRti_tracks (fun w extra u crossed h => ordinaryCost_of_zero (bind_pure_extra h))
      (by omega) (by simp [shapeOperands])
  | brk signature =>
    exact runPlain_runs 5 actBrk_tracks (fun w extra u crossed h => ordinaryCost_of_zero (bind_pure_extra h))
      (by omega) (by simp [shapeOperands])
  | undefined opcode => exact absurd hs (hu opcode)

/-- An undefined opcode halts or runs as a no-op of two cycles (R401). -/
theorem exec_undefined (opcode : Byte) (s : State) :
    (s.cfg.illegalPolicy = .halt ∧ exec (.undefined opcode) s = .next (haltOn opcode s)) ∨
    (s.cfg.illegalPolicy = .nop ∧ exec (.undefined opcode) s = .next (completeStep .instruction s (decodedOf opcode [])
      2 ((Work.start s (fetchLog s.pc [opcode])).advance s.pc 1))) := by
  show (_ ∧ execUndefined opcode s = _) ∨ (_ ∧ execUndefined opcode s = _)
  unfold execUndefined
  cases s.cfg.illegalPolicy
  · exact .inl ⟨rfl, rfl⟩
  · exact .inr ⟨rfl, rfl⟩

/-- Everything `exec` can do when it completes: the halt of an undefined opcode, or an executed instruction. -/
theorem exec_next {i : Instr} {s t : State} (h : exec i s = .next t) :
    (∃ opcode, i = .undefined opcode ∧ s.cfg.illegalPolicy = .halt ∧ t = haltOn opcode s) ∨
    (∃ n w, Executes i.opcode i.operands n w s t ∧ ordinaryCost n) := by
  by_cases hu : ∃ opcode, i = .undefined opcode
  · obtain ⟨opcode, rfl⟩ := hu
    rcases exec_undefined opcode s with ⟨hp, he⟩ | ⟨hp, he⟩
    · rw [he] at h; injection h with h; exact .inl ⟨opcode, rfl, hp, h.symm⟩
    · rw [he] at h
      injection h with h
      refine .inr ⟨2, _, ⟨h.symm, ?_, by simp [fetchLog]⟩, by simp [ordinaryCost]⟩
      exact Reaches.mono (n := 0)
        (RegsOnly.reaches ⟨⟨⟨rfl, rfl, rfl, rfl, rfl, rfl, rfl⟩, rfl, rfl, rfl, rfl⟩, rfl, rfl⟩ rfl rfl) (by omega)
  · have hr := exec_runs i s fun opcode e => hu ⟨opcode, e⟩
    rw [h] at hr
    exact .inr hr

/-- Everything `exec` can do when it faults: a bus call fails. -/
theorem exec_fault {i : Instr} {s : State} {f : Fault} (h : exec i s = .fault f) : FailsFrom s f := by
  by_cases hu : ∃ opcode, i = .undefined opcode
  · obtain ⟨opcode, rfl⟩ := hu
    rcases exec_undefined opcode s with ⟨-, he⟩ | ⟨-, he⟩ <;> rw [he] at h <;> cases h
  · have hr := exec_runs i s fun opcode e => hu ⟨opcode, e⟩
    rw [h] at hr
    exact hr

/-- No instruction is refused. -/
theorem exec_refused (i : Instr) (s : State) (r : Refusal) : exec i s ≠ .refused r := by
  intro h
  by_cases hu : ∃ opcode, i = .undefined opcode
  · obtain ⟨opcode, rfl⟩ := hu
    rcases exec_undefined opcode s with ⟨-, he⟩ | ⟨-, he⟩ <;> rw [he] at h <;> cases h
  · have hr := exec_runs i s fun opcode e => hu ⟨opcode, e⟩
    rw [h] at hr
    exact hr

/-! ### Fetch -/

theorem memRead_fetch {kind : AccessKind} {a : Word} {w u : Work} {v : Byte} (h : memRead kind a w = .ok (v, u)) :
    u.st = { w.st with calls := u.st.calls } := busRead_state (memRead_ok h).1

theorem fetchBytes_ok {n : Nat} {a : Word} {w u : Work} {l : List Byte} (h : fetchBytes n a w = .ok (l, u)) :
    l.length = n ∧ u.st = { w.st with calls := u.st.calls } := by
  induction n generalizing a w l u with
  | zero => injection h with h; injection h with h h'; subst h h'; exact ⟨rfl, rfl⟩
  | succ n ih =>
    unfold fetchBytes at h
    cases h1 : memRead .fetch a w with
    | error f => rw [h1] at h; cases h
    | ok x =>
      rw [h1] at h
      simp only [bind, Except.bind] at h
      cases h2 : fetchBytes n (a + 1) x.2 with
      | error f => rw [h2] at h; cases h
      | ok y =>
        rw [h2] at h
        injection h with h
        injection h with h h'
        obtain ⟨hl, hs⟩ := ih h2
        have e := memRead_fetch h1
        subst h h'
        refine ⟨by simp [hl], ?_⟩
        rw [e] at hs
        exact hs

theorem fetchBytes_error {n : Nat} {a : Word} {w : Work} {f : Fault} (h : fetchBytes n a w = .error f) :
    FailsFrom w.st f := by
  induction n generalizing a w with
  | zero => cases h
  | succ n ih =>
    unfold fetchBytes at h
    have ht := memRead_tracks .fetch a w (by simp) (by simp)
    cases h1 : memRead .fetch a w with
    | error g => rw [h1] at h ht; injection h with h; subst h; exact ht
    | ok x =>
      rw [h1] at h ht
      simp only [bind, Except.bind] at h
      cases h2 : fetchBytes n (a + 1) x.2 with
      | error g => rw [h2] at h; injection h with h; subst h; exact FailsFrom.of_held ht.held (ih h2)
      | ok y => rw [h2] at h; cases h

/-- Every byte's entry with no row of its own is one of the 105 (R99). -/
theorem instrOf_wellFormed (opcode b1 b2 : Byte) : WellFormed (instrOf opcode b1 b2) := by
  have h : ∀ opcode : Byte, (instrOf opcode 0 0).check = true := by decide +kernel
  have e : ∀ (o b1 b2 : Byte), (instrOf o b1 b2).check = (instrOf o 0 0).check := by
    intro o b1 b2
    unfold instrOf
    split <;> rfl
  show (instrOf opcode b1 b2).check = true
  rw [e, h]

/-- A fetch that completes: a well-formed instruction, and a state that differs in what the
collaborator has seen alone. -/
theorem fetchInstr_ok {s t : State} {i : Instr} (h : fetchInstr s = .ok (i, t)) :
    WellFormed i ∧ t = { s with calls := t.calls } := by
  unfold fetchInstr at h
  cases h1 : memRead .fetch s.pc (Work.start s []) with
  | error f => rw [h1] at h; cases h
  | ok x =>
    rw [h1] at h
    simp only [bind, Except.bind] at h
    cases h2 : fetchBytes ((table x.1).length - 1) (s.pc + 1) x.2 with
    | error f => rw [h2] at h; cases h
    | ok y =>
      rw [h2] at h
      injection h with h
      injection h with h h'
      subst h h'
      have e1 := memRead_fetch h1
      have e2 := (fetchBytes_ok h2).2
      rw [e1] at e2
      exact ⟨instrOf_wellFormed _ _ _, e2⟩

theorem fetchInstr_error {s : State} {f : Fault} (h : fetchInstr s = .error f) : FailsFrom s f := by
  unfold fetchInstr at h
  have ht := memRead_tracks .fetch s.pc (Work.start s []) (by simp) (by simp)
  cases h1 : memRead .fetch s.pc (Work.start s []) with
  | error g => rw [h1] at h ht; injection h with h; subst h; exact ht
  | ok x =>
    rw [h1] at h ht
    simp only [bind, Except.bind] at h
    cases h2 : fetchBytes ((table x.1).length - 1) (s.pc + 1) x.2 with
    | error g =>
      rw [h2] at h
      injection h with h
      subst h
      exact FailsFrom.of_held ht.held (fetchBytes_error h2)
    | ok y => rw [h2] at h; cases h

/-! ### step -/

/-- A service that completes: seven cycles, five bus calls, and no instruction. -/
theorem service_next {kind : StepKind} {mnemonic : String} {vector : Word} {before s t : State}
    (h : service kind mnemonic vector before s = .next t) :
    ∃ w, interruptEntry vector false (Work.start s []) = .ok w ∧
      t = completeStep kind before ⟨none, [], mnemonic, none⟩ 7 w ∧ Reaches 5 (Work.start s []) w := by
  unfold service at h
  have ht := interruptEntry_tracks vector false (Work.start s [])
  cases h1 : interruptEntry vector false (Work.start s []) with
  | error f => rw [h1] at h; cases h
  | ok w =>
    rw [h1] at h ht
    injection h with h
    exact ⟨w, rfl, h.symm, ht⟩

theorem service_fault {kind : StepKind} {mnemonic : String} {vector : Word} {before s : State} {f : Fault}
    (h : service kind mnemonic vector before s = .fault f) : FailsFrom s f := by
  unfold service at h
  have ht := interruptEntry_tracks vector false (Work.start s [])
  cases h1 : interruptEntry vector false (Work.start s []) with
  | error g => rw [h1] at h ht; injection h with h; subst h; exact ht
  | ok w => rw [h1] at h; cases h

theorem service_refused {kind : StepKind} {mnemonic : String} {vector : Word} {before s : State} {r : Refusal}
    (h : service kind mnemonic vector before s = .refused r) : False := by
  unfold service at h
  cases h1 : interruptEntry vector false (Work.start s []) with
  | error g => rw [h1] at h; cases h
  | ok w => rw [h1] at h; cases h

/-- The four kinds of step that complete (R121). -/
inductive Steps (s t : State) : Prop where
  | halted (h : s.halted = true) (ends : t = haltedStep s)
  | nmi (w : Work) (h : s.halted = false) (pending : s.nmiPending = true)
      (works : Reaches 5 (Work.start { s with nmiPending := false } []) w)
      (ends : t = completeStep .nmi s ⟨none, [], "NMI", none⟩ 7 w)
  | irq (w : Work) (h : s.halted = false) (quiet : s.nmiPending = false) (pending : s.irqPending = true)
      (unmasked : s.p.i = false) (works : Reaches 5 (Work.start { s with irqPending := false } []) w)
      (ends : t = completeStep .irq s ⟨none, [], "IRQ", none⟩ 7 w)
  | instruction (i : Instr) (u : State) (h : s.halted = false) (quiet : s.nmiPending = false)
      (masked : s.irqPending = false ∨ s.p.i = true) (fetched : fetchInstr s = .ok (i, u)) (runs : exec i u = .next t)

/-- Everything `step` can do when it completes. -/
theorem step_next {s t : State} (h : step s = .next t) : s.faulted = none ∧ Steps s t := by
  unfold step at h
  split at h
  · cases h
  · next hf =>
    refine ⟨hf, ?_⟩
    split at h
    · next hh => injection h with h; exact .halted hh h.symm
    · next hh =>
      split at h
      · next hn =>
        obtain ⟨w, -, ht, hr⟩ := service_next h
        exact .nmi w (by simpa using hh) hn hr ht
      · next hn =>
        split at h
        · next hi =>
          simp only [Bool.and_eq_true, Bool.not_eq_true'] at hi
          obtain ⟨w, -, ht, hr⟩ := service_next h
          exact .irq w (by simpa using hh) (by simpa using hn) hi.1 hi.2 hr ht
        · next hi =>
          unfold executeInstruction at h
          cases h1 : fetchInstr s with
          | error f => rw [h1] at h; cases h
          | ok x =>
            rw [h1] at h
            refine .instruction x.1 x.2 (by simpa using hh) (by simpa using hn) ?_ h1 h
            cases hq : s.irqPending <;> simp_all

/-- Everything `step` can do when it faults: the CPU had faulted, or a bus call fails. -/
theorem step_fault {s : State} {f : Fault} (h : step s = .fault f) :
    (∃ failure, s.faulted = some failure ∧ f = .afterFault failure) ∨
    (s.faulted = none ∧ s.halted = false ∧
      ∃ u : State, { u with nmiPending := s.nmiPending, irqPending := s.irqPending } = s ∧ FailsFrom u f) := by
  unfold step at h
  split at h
  · next failure hf => injection h with h; exact .inl ⟨failure, hf, h.symm⟩
  · next hf =>
    split at h
    · cases h
    · next hh =>
      refine .inr ⟨hf, by simpa using hh, ?_⟩
      split at h
      · exact ⟨{ s with nmiPending := false }, rfl, service_fault (s := { s with nmiPending := false }) h⟩
      · split at h
        · exact ⟨{ s with irqPending := false }, rfl, service_fault (s := { s with irqPending := false }) h⟩
        · unfold executeInstruction at h
          cases h1 : fetchInstr s with
          | error g =>
            rw [h1] at h
            injection h with h
            subst h
            exact ⟨s, rfl, fetchInstr_error h1⟩
          | ok x =>
            rw [h1] at h
            have hs := (fetchInstr_ok h1).2
            refine ⟨s, rfl, FailsFrom.of_held ?_ (exec_fault h)⟩
            rw [hs]
            exact ⟨⟨rfl, rfl, rfl, rfl, rfl, rfl, rfl⟩, rfl, rfl, rfl, rfl⟩

/-- No step is refused. -/
theorem step_refused (s : State) (r : Refusal) : step s ≠ .refused r := by
  intro h
  unfold step at h
  split at h
  · cases h
  · split at h
    · cases h
    · split at h
      · exact service_refused h
      · split at h
        · exact service_refused h
        · unfold executeInstruction at h
          cases h1 : fetchInstr s with
          | error g => rw [h1] at h; cases h
          | ok x => rw [h1] at h; exact exec_refused _ _ _ h

end Sys2Proof.Machine
end

