-- ==== Sys2Proof/Laws/Classes.lean ====
section
/-! SUPPORT. What an instruction of each class does when its bus calls succeed: one equation per class for `exec`, from
which every statement about the class follows without unfolding the engine. -/

namespace Sys2Proof.Machine

/-! ### The engine's frame -/

theorem runInstr_ok {α : Type} {opcode : Byte} {operands : List Byte} {locate : Work → Except Fault (α × Bool × Work)}
    {act : α → Work → Except Fault (Nat × Work)} {s : State} {place : α} {crossed : Bool} {w u : Work} {extra : Nat}
    (hl : locate (Work.start s (fetchLog s.pc (opcode :: operands))) = .ok (place, crossed, w))
    (ha : act place (w.advance s.pc (table opcode).length) = .ok (extra, u)) :
    runInstr opcode operands locate act s =
      .next (completeStep .instruction s (decodedOf opcode operands) (cycleCount (table opcode) extra crossed) u) := by
  unfold runInstr
  rw [hl]
  show outcomeOf (act place (w.advance s.pc (table opcode).length) >>= _) = _
  rw [ha]
  rfl

theorem runPlain_ok {opcode : Byte} {operands : List Byte} {act : Work → Except Fault (Nat × Work)} {s : State}
    {u : Work} {extra : Nat}
    (ha : act ((Work.start s (fetchLog s.pc (opcode :: operands))).advance s.pc (table opcode).length) = .ok (extra, u)) :
    runPlain opcode operands act s =
      .next (completeStep .instruction s (decodedOf opcode operands) (cycleCount (table opcode) extra false) u) :=
  runInstr_ok (act := fun (_ : Unit) => act) rfl ha

/-- Where PC stands when an action begins. -/
theorem begun_advanced (i : Instr) (s : State) :
    (advanced i s (begun i s)).st = { s with pc := nextPc i s } := rfl

/-- The cost of an instruction whose action costs nothing extra. -/
theorem cycleCount_zero (i : Instr) (crossed : Bool) :
    cycleCount (table i.opcode) 0 crossed = (table i.opcode).baseCycles + pageExtra i crossed := rfl

/-- The work an instruction's addressing mode leaves: PC advanced, nothing else changed but what the
collaborator has seen. -/
theorem resolve_advanced {i : Instr} {f : EaForm} {s : State} {ea : Word} {crossed : Bool} {w : Work}
    (h : resolve f (begun i s) = .ok (ea, crossed, w)) :
    (advanced i s w).st = { s with pc := nextPc i s, calls := w.st.calls } ∧
    (advanced i s w).wrapped = false := by
  obtain ⟨h1, h2⟩ := resolve_ok h
  constructor
  · simp only [advanced, Work.advance_st]
    rw [h1]
    rfl
  · exact h2

/-! ### The read class -/

theorem operandOf_state {i : Instr} {f : ReadForm} {s : State} {v : Byte} {crossed : Bool} {w : Work}
    (h : operandOf i f s = .ok (v, crossed, w)) :
    w.st = { s with pc := nextPc i s, calls := w.st.calls } ∧ w.wrapped = false := by
  cases f with
  | imm b1 =>
    injection h with h
    injection h with h1 h
    injection h with h2 h3
    subst h3
    exact ⟨rfl, rfl⟩
  | ea f =>
    unfold operandOf at h
    cases h1 : resolve f (begun i s) with
    | error e => simp only [h1, bind, Except.bind] at h; cases h
    | ok x =>
      obtain ⟨ea, cr, u⟩ := x
      simp only [h1, bind, Except.bind] at h
      cases h2 : memRead .read ea (advanced i s u) with
      | error e => rw [h2] at h; cases h
      | ok y =>
        rw [h2] at h
        injection h with h
        injection h with e1 h
        injection h with e2 e3
        subst e3
        obtain ⟨a1, a2⟩ := resolve_advanced h1
        obtain ⟨b1, b2⟩ := memRead_ok (v := y.1) (u := y.2) h2
        have c := busRead_state b1
        rw [a1] at c
        refine ⟨c, ?_⟩
        rw [b2]
        exact a2

/-- A read-class instruction whose operand can be read (R153, R154). -/
theorem exec_read {i : Instr} {op : ReadOp} {f : ReadForm} {s : State} {v : Byte} {crossed : Bool} {w : Work}
    (hs : shapeOf i = .read op f) (ho : operandOf i f s = .ok (v, crossed, w)) :
    exec i s = .next (completeStep .instruction s (decodedOf i.opcode i.operands)
      (cycleCount (table i.opcode) 0 crossed) (w.mapState (readAction op v))) := by
  have hop := shapeOperands_eq i
  rw [exec_eq_run]
  rw [hs] at hop ⊢
  cases f with
  | imm b1 =>
    injection ho with ho
    injection ho with h1 ho
    injection ho with h2 h3
    subst h1 h2 h3
    simp only [shapeOperands, readBytes] at hop
    rw [hop]
    have hb : begun i s = Work.start s (fetchLog s.pc (i.opcode :: [b1])) := by rw [begun, encode, hop]
    rw [hb]
    exact runPlain_ok (act := fun w => .ok (0, w.mapState (readAction op b1))) rfl
  | ea f =>
    simp only [shapeOperands, readBytes] at hop
    rw [hop]
    have hb : begun i s = Work.start s (fetchLog s.pc (i.opcode :: eaBytes f)) := by rw [begun, encode, hop]
    unfold operandOf at ho
    cases h1 : resolve f (begun i s) with
    | error e => simp only [h1, bind, Except.bind] at ho; cases ho
    | ok x =>
      obtain ⟨ea, cr, u⟩ := x
      simp only [h1, bind, Except.bind] at ho
      cases h2 : memRead .read ea (advanced i s u) with
      | error e => rw [h2] at ho; cases ho
      | ok y =>
        rw [h2] at ho
        injection ho with ho
        injection ho with e1 ho
        injection ho with e2 e3
        subst e1 e2 e3
        rw [hb] at h1
        refine runInstr_ok h1 ?_
        show readAct (readAction op) ea (advanced i s u) = _
        unfold readAct
        rw [h2]
        rfl

/-! ### The write class -/

/-- A write that succeeded: the state it leaves, and that a byte reads as before but where it was stored. -/
theorem memWrite_advanced {i : Instr} {ea : Word} {v : Byte} {s : State} {w u : Work} {calls : List BusCall}
    (hw : w.st = { s with pc := nextPc i s, calls := calls }) (h : memWrite .write ea v w = .ok u) :
    u = { st := { (if writeAnswerOf s.cfg ea = .cell then s.poke ea v else s) with
            pc := nextPc i s, calls := u.st.calls }
          log := w.log ++ [⟨.write, ea, v⟩], wrapped := w.wrapped } := by
  obtain ⟨hb, hu⟩ := memWrite_ok h
  have hs := busWrite_state hb
  have hc : w.st.cfg = s.cfg := by rw [hw]
  rw [hc, hw] at hs
  rw [hu]
  congr 1
  rw [hs]
  split <;> rfl

/-- A write-class instruction whose store succeeds. -/
theorem exec_write {i : Instr} {r : StoreReg} {f : EaForm} {s : State} {ea : Word} {crossed : Bool} {w u : Work}
    (hs : shapeOf i = .write r f) (ho : resolve f (begun i s) = .ok (ea, crossed, w))
    (hw : memWrite .write ea (storeValue r s) (advanced i s w) = .ok u) :
    exec i s = .next (completeStep .instruction s (decodedOf i.opcode i.operands)
      (cycleCount (table i.opcode) 0 crossed)
      { st := { (if writeAnswerOf s.cfg ea = .cell then s.poke ea (storeValue r s) else s) with
          pc := nextPc i s, calls := u.st.calls }
        log := w.log ++ [⟨.write, ea, storeValue r s⟩], wrapped := false }) := by
  have hop := shapeOperands_eq i
  obtain ⟨a1, a2⟩ := resolve_advanced ho
  have hu := memWrite_advanced a1 hw
  rw [a2] at hu
  rw [exec_eq_run]
  rw [hs] at hop ⊢
  simp only [shapeOperands] at hop
  rw [hop]
  have hb : begun i s = Work.start s (fetchLog s.pc (i.opcode :: eaBytes f)) := by rw [begun, encode, hop]
  rw [hb] at ho
  refine runInstr_ok ho ?_
  show writeAct (storeValue r) ea (advanced i s w) = _
  have hv : storeValue r (advanced i s w).st = storeValue r s := by rw [a1]; cases r <;> rfl
  unfold writeAct
  rw [hv, hw]
  exact congrArg (fun u => (Except.ok (0, u) : Except Fault (Nat × Work))) hu

/-! ### The read-modify-write class -/

/-- A memory form of a read-modify-write instruction, where the byte can be read and the store succeeds. -/
theorem exec_modify {i : Instr} {op : ModifyOp} {f : EaForm} {s : State} {ea : Word} {v : Byte} {crossed : Bool}
    {w u x : Work} (hs : shapeOf i = .modify op f) (ho : resolve f (begun i s) = .ok (ea, crossed, w))
    (hr : memRead .read ea (advanced i s w) = .ok (v, u))
    (hw : memWrite .write ea (modifyAction op v s).1 u = .ok x) :
    exec i s = .next (completeStep .instruction s (decodedOf i.opcode i.operands)
      (cycleCount (table i.opcode) 0 crossed)
      { st := setNZ (modifyAction op v s).1 (setC (modifyAction op v s).2.p.c
          { (if writeAnswerOf s.cfg ea = .cell then s.poke ea (modifyAction op v s).1 else s) with
            pc := nextPc i s, calls := x.st.calls })
        log := u.log ++ [⟨.write, ea, (modifyAction op v s).1⟩], wrapped := false }) := by
  have hop := shapeOperands_eq i
  obtain ⟨a1, a2⟩ := resolve_advanced ho
  obtain ⟨b1, b2⟩ := memRead_ok hr
  have c1 := busRead_state b1
  have c2 : u.wrapped = false := by rw [b2]; exact a2
  rw [a1] at c1
  have hx := memWrite_advanced (i := i) (s := s) c1 hw
  rw [c2] at hx
  rw [exec_eq_run]
  rw [hs] at hop ⊢
  simp only [shapeOperands] at hop
  rw [hop]
  have hb : begun i s = Work.start s (fetchLog s.pc (i.opcode :: eaBytes f)) := by rw [begun, encode, hop]
  rw [hb] at ho
  refine runInstr_ok ho ?_
  show modifyAct (modifyAction op) ea (advanced i s w) = _
  have hv : (modifyAction op v u.st).1 = (modifyAction op v s).1 := by rw [c1]; cases op <;> rfl
  have hp : (modifyAction op v u.st).2.p.c = (modifyAction op v s).2.p.c := by rw [c1]; cases op <;> rfl
  have hw' : memWrite .write ea (modifyAction op v s).1 { u with st := (modifyAction op v u.st).2 } =
      .ok (x.mapState (setC (modifyAction op v s).2.p.c)) := by
    rw [modifyAction_state, hp]
    exact memWrite_setC _ hw
  unfold modifyAct
  rw [hr]
  simp only [bind, Except.bind, hv, hw']
  exact congrArg (fun x : Work => (Except.ok (0, x.mapState fun s' => setNZ (modifyAction op v s).1
    (setC (modifyAction op v s).2.p.c s')) : Except Fault (Nat × Work))) hx

/-! ### Register-only instructions, branches and jumps -/

theorem exec_accumulator {i : Instr} {op : ModifyOp} (s : State) (hs : shapeOf i = .accumulator op) :
    exec i s = .next (completeStep .instruction s (decodedOf i.opcode i.operands) (cycleCount (table i.opcode) 0 false)
      ((advanced i s (begun i s)).mapState (modifyA (modifyAction op)))) := by
  have hop := shapeOperands_eq i
  rw [exec_eq_run]
  rw [hs] at hop ⊢
  simp only [shapeOperands] at hop
  have hb : begun i s = Work.start s (fetchLog s.pc [i.opcode]) := by rw [begun, encode, hop]
  rw [hb, hop]
  exact runPlain_ok (act := fun w => .ok (0, w.mapState (modifyA (modifyAction op)))) rfl

theorem exec_inherent {i : Instr} {op : InherentOp} (s : State) (hs : shapeOf i = .inherent op) :
    exec i s = .next (completeStep .instruction s (decodedOf i.opcode i.operands) (cycleCount (table i.opcode) 0 false)
      ((advanced i s (begun i s)).mapState (inherentAction op))) := by
  have hop := shapeOperands_eq i
  rw [exec_eq_run]
  rw [hs] at hop ⊢
  simp only [shapeOperands] at hop
  have hb : begun i s = Work.start s (fetchLog s.pc [i.opcode]) := by rw [begun, encode, hop]
  rw [hb, hop]
  exact runPlain_ok (act := fun w => .ok (0, w.mapState (inherentAction op))) rfl

theorem exec_branch {i : Instr} {op : BranchOp} {b1 : Byte} (s : State) (hs : shapeOf i = .branch op b1) :
    exec i s = .next (completeStep .instruction s (decodedOf i.opcode i.operands)
      (cycleCount (table i.opcode) (branch (branchCondition op s.p) b1 (advanced i s (begun i s))).1 false)
      (branch (branchCondition op s.p) b1 (advanced i s (begun i s))).2) := by
  have hop := shapeOperands_eq i
  rw [exec_eq_run]
  rw [hs] at hop ⊢
  simp only [shapeOperands] at hop
  have hb : begun i s = Work.start s (fetchLog s.pc (i.opcode :: [b1])) := by rw [begun, encode, hop]
  rw [hb, hop]
  exact runPlain_ok (act := fun w => .ok (branch (branchCondition op w.st.p) b1 w)) rfl

theorem exec_jmp {i : Instr} {f : EaForm} {s : State} {ea : Word} {crossed : Bool} {w : Work}
    (hs : shapeOf i = .jmp f) (ho : resolve f (begun i s) = .ok (ea, crossed, w)) :
    exec i s = .next (completeStep .instruction s (decodedOf i.opcode i.operands)
      (cycleCount (table i.opcode) 0 crossed) ((advanced i s w).mapState fun s => { s with pc := ea })) := by
  have hop := shapeOperands_eq i
  rw [exec_eq_run]
  rw [hs] at hop ⊢
  simp only [shapeOperands] at hop
  rw [hop]
  have hb : begun i s = Work.start s (fetchLog s.pc (i.opcode :: eaBytes f)) := by rw [begun, encode, hop]
  rw [hb] at ho
  exact runInstr_ok ho rfl

/-! ### Words on a stack of plain RAM -/

/-- A word pushed onto plain RAM (R69): the high byte at SP, the low byte below it. -/
theorem pushWord_ram (v : Word) (w : Work) (h : StackIsRam w.st.cfg) : pushWord v w = .ok
    { st := { (w.st.poke (stackAddr w.st.sp) (hi8 v)).poke (stackAddr (w.st.sp - 1)) (lo8 v) with
        sp := w.st.sp - 2
        stackWrapCount := w.st.stackWrapCount + if w.st.sp.toNat < 2 then 1 else 0 }
      log := w.log ++ [⟨.stackWrite, stackAddr w.st.sp, hi8 v⟩] ++ [⟨.stackWrite, stackAddr (w.st.sp - 1), lo8 v⟩]
      wrapped := (w.wrapped || (w.st.sp == 0x00)) || (w.st.sp - 1 == 0x00) } := by
  have e : w.st.sp - 1 - 1 = w.st.sp - 2 := by bv_omega
  have c : (w.st.sp == 0x00).toNat + (w.st.sp - 1 == 0x00).toNat = if w.st.sp.toNat < 2 then 1 else 0 := by
    generalize w.st.sp = sp
    revert sp
    decide +kernel
  unfold pushWord
  rw [push_ram _ _ h]
  show push _ _ = _
  rw [push_ram _ _ (by exact h)]
  simp only [e, State.poke, ← c, Nat.add_assoc]

/-- A word pulled from plain RAM (R69): the low byte first. -/
theorem pullWord_ram (w : Work) (h : StackIsRam w.st.cfg) : pullWord w = .ok
    (word (w.st.peek (stackAddr (w.st.sp + 2))) (w.st.peek (stackAddr (w.st.sp + 1))),
      { st := { w.st with
          sp := w.st.sp + 2
          stackWrapCount := w.st.stackWrapCount + if w.st.sp.toNat ≥ 254 then 1 else 0 }
        log := w.log ++ [⟨.stackRead, stackAddr (w.st.sp + 1), w.st.peek (stackAddr (w.st.sp + 1))⟩] ++
          [⟨.stackRead, stackAddr (w.st.sp + 2), w.st.peek (stackAddr (w.st.sp + 2))⟩]
        wrapped := (w.wrapped || (w.st.sp == 0xFF)) || (w.st.sp + 1 == 0xFF) }) := by
  have e : w.st.sp + 1 + 1 = w.st.sp + 2 := by bv_omega
  have c : (w.st.sp == 0xFF).toNat + (w.st.sp + 1 == 0xFF).toNat = if w.st.sp.toNat ≥ 254 then 1 else 0 := by
    generalize w.st.sp = sp
    revert sp
    decide +kernel
  unfold pullWord
  rw [pull_ram _ h]
  show (pull _ >>= _) = _
  rw [pull_ram _ (by exact h)]
  simp only [e, ← c, ← Nat.add_assoc]
  rfl

/-- A word read from two bytes of plain memory. -/
theorem readWord_cell (a : Word) (w : Work) (h : VectorReadable w.st.cfg a) : readWord a w = .ok
    (vectorTarget w.st a,
      { w with log := w.log ++ [⟨.vector, a, w.st.peek a⟩] ++ [⟨.vector, a + 1, w.st.peek (a + 1)⟩] }) := by
  unfold readWord readPair
  rw [memRead_cell h.1]
  show (memRead _ _ _ >>= _) = _
  rw [memRead_cell (by exact h.2)]
  rfl

/-- No stack address is a vector's. -/
theorem stackAddr_ne_vector (p : Byte) (a : Word) (h : 512 ≤ a.toNat) : a ≠ stackAddr p := by
  intro e
  have := congrArg BitVec.toNat e
  have := p.isLt
  rw [stackAddr_toNat] at *
  omega

/-- The bytes an interrupt entry stores (R431). -/
theorem peek_afterEntry (s : State) (pc : Word) (status : Byte) (a : Word) :
    (((s.poke (stackAddr s.sp) (hi8 pc)).poke (stackAddr (s.sp - 1)) (lo8 pc)).poke (stackAddr (s.sp - 2)) status).peek a
      = afterEntry s pc status a := by
  simp only [State.peek_poke, afterEntry]

/-- Interrupt entry on a stack of plain RAM, through a readable vector outside the stack page (R427, R430). -/
theorem interruptEntry_ram (vector : Word) (brk : Bool) (w : Work) (h : StackIsRam w.st.cfg)
    (hv : VectorReadable w.st.cfg vector) (ha : 512 ≤ vector.toNat ∧ 512 ≤ (vector + 1).toNat) :
    ∃ u, interruptEntry vector brk w = .ok u ∧
      u.st = { ((w.st.poke (stackAddr w.st.sp) (hi8 w.st.pc)).poke (stackAddr (w.st.sp - 1)) (lo8 w.st.pc)).poke
          (stackAddr (w.st.sp - 2)) (packP w.st.p brk) with
        sp := w.st.sp - 3
        stackWrapCount := w.st.stackWrapCount + if w.st.sp.toNat < 3 then 1 else 0
        p := { w.st.p with i := true }
        pc := vectorTarget w.st vector } ∧
      u.log = w.log ++ [⟨.stackWrite, stackAddr w.st.sp, hi8 w.st.pc⟩,
        ⟨.stackWrite, stackAddr (w.st.sp - 1), lo8 w.st.pc⟩,
        ⟨.stackWrite, stackAddr (w.st.sp - 2), packP w.st.p brk⟩,
        ⟨.vector, vector, w.st.peek vector⟩, ⟨.vector, vector + 1, w.st.peek (vector + 1)⟩] ∧
      u.wrapped = (w.wrapped || decide (w.st.sp.toNat < 3)) := by
  have e : w.st.sp - 2 - 1 = w.st.sp - 3 := by bv_omega
  have c : (if w.st.sp.toNat < 2 then 1 else 0) + (w.st.sp - 2 == 0x00).toNat = if w.st.sp.toNat < 3 then 1 else 0 := by
    generalize w.st.sp = sp
    revert sp
    decide +kernel
  have b : (((w.st.sp == 0x00) || (w.st.sp - 1 == 0x00)) || (w.st.sp - 2 == 0x00)) = decide (w.st.sp.toNat < 3) := by
    generalize w.st.sp = sp
    revert sp
    decide +kernel
  have hp : ∀ a : Word, 512 ≤ a.toNat → State.peek ((((w.st.poke (stackAddr w.st.sp) (hi8 w.st.pc)).poke
      (stackAddr (w.st.sp - 1)) (lo8 w.st.pc)).poke (stackAddr (w.st.sp - 2)) (packP w.st.p brk))) a =
        w.st.peek a := fun a ha => by
    simp only [State.peek_poke, stackAddr_ne_vector _ _ ha, if_false]
  have ht : vectorTarget ((((w.st.poke (stackAddr w.st.sp) (hi8 w.st.pc)).poke (stackAddr (w.st.sp - 1))
      (lo8 w.st.pc)).poke (stackAddr (w.st.sp - 2)) (packP w.st.p brk))) vector = vectorTarget w.st vector := by
    simp only [vectorTarget, State.peek_poke, stackAddr_ne_vector _ _ ha.1, stackAddr_ne_vector _ _ ha.2, if_false]
  unfold interruptEntry
  rw [pushWord_ram _ _ h]
  show ∃ u, (push _ _ >>= _) = _ ∧ _
  rw [push_ram _ _ (by exact h)]
  show ∃ u, (readWord _ _ >>= _) = _ ∧ _
  rw [readWord_cell _ _ (by exact hv)]
  refine ⟨_, rfl, ?_, ?_, ?_⟩
  · simp only [Work.mapState, e, ← c, ← ht, Nat.add_assoc]
    rfl
  · rw [← hp vector ha.1, ← hp (vector + 1) ha.2]
    simp only [Work.mapState, List.append_assoc, List.cons_append, List.nil_append]
    rfl
  · rw [← b]
    simp only [Work.mapState, Bool.or_assoc]

end Sys2Proof.Machine
end

