-- ==== Sys2Proof/Laws/PerInstr.lean ====
section
/-! SUPPORT. The facts of every instruction's encoding, one lemma per constructor, and what they say of the decoder. -/

namespace Sys2Proof.Laws.Encoding

/-- A well-formed instruction's encoding is as long as its table entry says (R97), and its opcode and operand bytes
select it again. -/
def Statement (i : Instr) : Prop :=
  WellFormed i →
    (table i.opcode).length = (encode i).length ∧
    instrOf i.opcode (i.operands.getD 0 0) (i.operands.getD 1 0) = i

theorem ldaIzx (b1 : Byte) : Statement (.ldaIzx b1) :=
  fun _ => ⟨(rfl : (table 0xA1).length = 2), rfl⟩
theorem ldaZp (b1 : Byte) : Statement (.ldaZp b1) :=
  fun _ => ⟨(rfl : (table 0xA5).length = 2), rfl⟩
theorem ldaImm (b1 : Byte) : Statement (.ldaImm b1) :=
  fun _ => ⟨(rfl : (table 0xA9).length = 2), rfl⟩
theorem ldaAbs (b1 b2 : Byte) : Statement (.ldaAbs b1 b2) :=
  fun _ => ⟨(rfl : (table 0xAD).length = 3), rfl⟩
theorem ldaIzy (b1 : Byte) : Statement (.ldaIzy b1) :=
  fun _ => ⟨(rfl : (table 0xB1).length = 2), rfl⟩
theorem ldaZpx (b1 : Byte) : Statement (.ldaZpx b1) :=
  fun _ => ⟨(rfl : (table 0xB5).length = 2), rfl⟩
theorem ldaAby (b1 b2 : Byte) : Statement (.ldaAby b1 b2) :=
  fun _ => ⟨(rfl : (table 0xB9).length = 3), rfl⟩
theorem ldaAbx (b1 b2 : Byte) : Statement (.ldaAbx b1 b2) :=
  fun _ => ⟨(rfl : (table 0xBD).length = 3), rfl⟩
theorem ldxImm (b1 : Byte) : Statement (.ldxImm b1) :=
  fun _ => ⟨(rfl : (table 0xA2).length = 2), rfl⟩
theorem ldxZp (b1 : Byte) : Statement (.ldxZp b1) :=
  fun _ => ⟨(rfl : (table 0xA6).length = 2), rfl⟩
theorem ldxAbs (b1 b2 : Byte) : Statement (.ldxAbs b1 b2) :=
  fun _ => ⟨(rfl : (table 0xAE).length = 3), rfl⟩
theorem ldxZpy (b1 : Byte) : Statement (.ldxZpy b1) :=
  fun _ => ⟨(rfl : (table 0xB6).length = 2), rfl⟩
theorem ldxAby (b1 b2 : Byte) : Statement (.ldxAby b1 b2) :=
  fun _ => ⟨(rfl : (table 0xBE).length = 3), rfl⟩
theorem ldyImm (b1 : Byte) : Statement (.ldyImm b1) :=
  fun _ => ⟨(rfl : (table 0xA0).length = 2), rfl⟩
theorem ldyZp (b1 : Byte) : Statement (.ldyZp b1) :=
  fun _ => ⟨(rfl : (table 0xA4).length = 2), rfl⟩
theorem ldyAbs (b1 b2 : Byte) : Statement (.ldyAbs b1 b2) :=
  fun _ => ⟨(rfl : (table 0xAC).length = 3), rfl⟩
theorem ldyZpx (b1 : Byte) : Statement (.ldyZpx b1) :=
  fun _ => ⟨(rfl : (table 0xB4).length = 2), rfl⟩
theorem ldyAbx (b1 b2 : Byte) : Statement (.ldyAbx b1 b2) :=
  fun _ => ⟨(rfl : (table 0xBC).length = 3), rfl⟩
theorem staIzx (b1 : Byte) : Statement (.staIzx b1) :=
  fun _ => ⟨(rfl : (table 0x81).length = 2), rfl⟩
theorem staZp (b1 : Byte) : Statement (.staZp b1) :=
  fun _ => ⟨(rfl : (table 0x85).length = 2), rfl⟩
theorem staAbs (b1 b2 : Byte) : Statement (.staAbs b1 b2) :=
  fun _ => ⟨(rfl : (table 0x8D).length = 3), rfl⟩
theorem staIzy (b1 : Byte) : Statement (.staIzy b1) :=
  fun _ => ⟨(rfl : (table 0x91).length = 2), rfl⟩
theorem staZpx (b1 : Byte) : Statement (.staZpx b1) :=
  fun _ => ⟨(rfl : (table 0x95).length = 2), rfl⟩
theorem staAby (b1 b2 : Byte) : Statement (.staAby b1 b2) :=
  fun _ => ⟨(rfl : (table 0x99).length = 3), rfl⟩
theorem staAbx (b1 b2 : Byte) : Statement (.staAbx b1 b2) :=
  fun _ => ⟨(rfl : (table 0x9D).length = 3), rfl⟩
theorem stxZp (b1 : Byte) : Statement (.stxZp b1) :=
  fun _ => ⟨(rfl : (table 0x86).length = 2), rfl⟩
theorem stxAbs (b1 b2 : Byte) : Statement (.stxAbs b1 b2) :=
  fun _ => ⟨(rfl : (table 0x8E).length = 3), rfl⟩
theorem stxZpy (b1 : Byte) : Statement (.stxZpy b1) :=
  fun _ => ⟨(rfl : (table 0x96).length = 2), rfl⟩
theorem styZp (b1 : Byte) : Statement (.styZp b1) :=
  fun _ => ⟨(rfl : (table 0x84).length = 2), rfl⟩
theorem styAbs (b1 b2 : Byte) : Statement (.styAbs b1 b2) :=
  fun _ => ⟨(rfl : (table 0x8C).length = 3), rfl⟩
theorem styZpx (b1 : Byte) : Statement (.styZpx b1) :=
  fun _ => ⟨(rfl : (table 0x94).length = 2), rfl⟩
theorem tax : Statement .tax :=
  fun _ => ⟨(rfl : (table 0xAA).length = 1), rfl⟩
theorem tay : Statement .tay :=
  fun _ => ⟨(rfl : (table 0xA8).length = 1), rfl⟩
theorem txa : Statement .txa :=
  fun _ => ⟨(rfl : (table 0x8A).length = 1), rfl⟩
theorem tya : Statement .tya :=
  fun _ => ⟨(rfl : (table 0x98).length = 1), rfl⟩
theorem tsx : Statement .tsx :=
  fun _ => ⟨(rfl : (table 0xBA).length = 1), rfl⟩
theorem txs : Statement .txs :=
  fun _ => ⟨(rfl : (table 0x9A).length = 1), rfl⟩
theorem pha : Statement .pha :=
  fun _ => ⟨(rfl : (table 0x48).length = 1), rfl⟩
theorem php : Statement .php :=
  fun _ => ⟨(rfl : (table 0x08).length = 1), rfl⟩
theorem pla : Statement .pla :=
  fun _ => ⟨(rfl : (table 0x68).length = 1), rfl⟩
theorem plp : Statement .plp :=
  fun _ => ⟨(rfl : (table 0x28).length = 1), rfl⟩
theorem adcIzx (b1 : Byte) : Statement (.adcIzx b1) :=
  fun _ => ⟨(rfl : (table 0x61).length = 2), rfl⟩
theorem adcZp (b1 : Byte) : Statement (.adcZp b1) :=
  fun _ => ⟨(rfl : (table 0x65).length = 2), rfl⟩
theorem adcImm (b1 : Byte) : Statement (.adcImm b1) :=
  fun _ => ⟨(rfl : (table 0x69).length = 2), rfl⟩
theorem adcAbs (b1 b2 : Byte) : Statement (.adcAbs b1 b2) :=
  fun _ => ⟨(rfl : (table 0x6D).length = 3), rfl⟩
theorem adcIzy (b1 : Byte) : Statement (.adcIzy b1) :=
  fun _ => ⟨(rfl : (table 0x71).length = 2), rfl⟩
theorem adcZpx (b1 : Byte) : Statement (.adcZpx b1) :=
  fun _ => ⟨(rfl : (table 0x75).length = 2), rfl⟩
theorem adcAby (b1 b2 : Byte) : Statement (.adcAby b1 b2) :=
  fun _ => ⟨(rfl : (table 0x79).length = 3), rfl⟩
theorem adcAbx (b1 b2 : Byte) : Statement (.adcAbx b1 b2) :=
  fun _ => ⟨(rfl : (table 0x7D).length = 3), rfl⟩
theorem sbcIzx (b1 : Byte) : Statement (.sbcIzx b1) :=
  fun _ => ⟨(rfl : (table 0xE1).length = 2), rfl⟩
theorem sbcZp (b1 : Byte) : Statement (.sbcZp b1) :=
  fun _ => ⟨(rfl : (table 0xE5).length = 2), rfl⟩
theorem sbcImm (b1 : Byte) : Statement (.sbcImm b1) :=
  fun _ => ⟨(rfl : (table 0xE9).length = 2), rfl⟩
theorem sbcAbs (b1 b2 : Byte) : Statement (.sbcAbs b1 b2) :=
  fun _ => ⟨(rfl : (table 0xED).length = 3), rfl⟩
theorem sbcIzy (b1 : Byte) : Statement (.sbcIzy b1) :=
  fun _ => ⟨(rfl : (table 0xF1).length = 2), rfl⟩
theorem sbcZpx (b1 : Byte) : Statement (.sbcZpx b1) :=
  fun _ => ⟨(rfl : (table 0xF5).length = 2), rfl⟩
theorem sbcAby (b1 b2 : Byte) : Statement (.sbcAby b1 b2) :=
  fun _ => ⟨(rfl : (table 0xF9).length = 3), rfl⟩
theorem sbcAbx (b1 b2 : Byte) : Statement (.sbcAbx b1 b2) :=
  fun _ => ⟨(rfl : (table 0xFD).length = 3), rfl⟩
theorem cmpIzx (b1 : Byte) : Statement (.cmpIzx b1) :=
  fun _ => ⟨(rfl : (table 0xC1).length = 2), rfl⟩
theorem cmpZp (b1 : Byte) : Statement (.cmpZp b1) :=
  fun _ => ⟨(rfl : (table 0xC5).length = 2), rfl⟩
theorem cmpImm (b1 : Byte) : Statement (.cmpImm b1) :=
  fun _ => ⟨(rfl : (table 0xC9).length = 2), rfl⟩
theorem cmpAbs (b1 b2 : Byte) : Statement (.cmpAbs b1 b2) :=
  fun _ => ⟨(rfl : (table 0xCD).length = 3), rfl⟩
theorem cmpIzy (b1 : Byte) : Statement (.cmpIzy b1) :=
  fun _ => ⟨(rfl : (table 0xD1).length = 2), rfl⟩
theorem cmpZpx (b1 : Byte) : Statement (.cmpZpx b1) :=
  fun _ => ⟨(rfl : (table 0xD5).length = 2), rfl⟩
theorem cmpAby (b1 b2 : Byte) : Statement (.cmpAby b1 b2) :=
  fun _ => ⟨(rfl : (table 0xD9).length = 3), rfl⟩
theorem cmpAbx (b1 b2 : Byte) : Statement (.cmpAbx b1 b2) :=
  fun _ => ⟨(rfl : (table 0xDD).length = 3), rfl⟩
theorem cpxImm (b1 : Byte) : Statement (.cpxImm b1) :=
  fun _ => ⟨(rfl : (table 0xE0).length = 2), rfl⟩
theorem cpxZp (b1 : Byte) : Statement (.cpxZp b1) :=
  fun _ => ⟨(rfl : (table 0xE4).length = 2), rfl⟩
theorem cpxAbs (b1 b2 : Byte) : Statement (.cpxAbs b1 b2) :=
  fun _ => ⟨(rfl : (table 0xEC).length = 3), rfl⟩
theorem cpyImm (b1 : Byte) : Statement (.cpyImm b1) :=
  fun _ => ⟨(rfl : (table 0xC0).length = 2), rfl⟩
theorem cpyZp (b1 : Byte) : Statement (.cpyZp b1) :=
  fun _ => ⟨(rfl : (table 0xC4).length = 2), rfl⟩
theorem cpyAbs (b1 b2 : Byte) : Statement (.cpyAbs b1 b2) :=
  fun _ => ⟨(rfl : (table 0xCC).length = 3), rfl⟩
theorem incZp (b1 : Byte) : Statement (.incZp b1) :=
  fun _ => ⟨(rfl : (table 0xE6).length = 2), rfl⟩
theorem incAbs (b1 b2 : Byte) : Statement (.incAbs b1 b2) :=
  fun _ => ⟨(rfl : (table 0xEE).length = 3), rfl⟩
theorem incZpx (b1 : Byte) : Statement (.incZpx b1) :=
  fun _ => ⟨(rfl : (table 0xF6).length = 2), rfl⟩
theorem incAbx (b1 b2 : Byte) : Statement (.incAbx b1 b2) :=
  fun _ => ⟨(rfl : (table 0xFE).length = 3), rfl⟩
theorem decZp (b1 : Byte) : Statement (.decZp b1) :=
  fun _ => ⟨(rfl : (table 0xC6).length = 2), rfl⟩
theorem decAbs (b1 b2 : Byte) : Statement (.decAbs b1 b2) :=
  fun _ => ⟨(rfl : (table 0xCE).length = 3), rfl⟩
theorem decZpx (b1 : Byte) : Statement (.decZpx b1) :=
  fun _ => ⟨(rfl : (table 0xD6).length = 2), rfl⟩
theorem decAbx (b1 b2 : Byte) : Statement (.decAbx b1 b2) :=
  fun _ => ⟨(rfl : (table 0xDE).length = 3), rfl⟩
theorem inx : Statement .inx :=
  fun _ => ⟨(rfl : (table 0xE8).length = 1), rfl⟩
theorem iny : Statement .iny :=
  fun _ => ⟨(rfl : (table 0xC8).length = 1), rfl⟩
theorem dex : Statement .dex :=
  fun _ => ⟨(rfl : (table 0xCA).length = 1), rfl⟩
theorem dey : Statement .dey :=
  fun _ => ⟨(rfl : (table 0x88).length = 1), rfl⟩
theorem andIzx (b1 : Byte) : Statement (.andIzx b1) :=
  fun _ => ⟨(rfl : (table 0x21).length = 2), rfl⟩
theorem andZp (b1 : Byte) : Statement (.andZp b1) :=
  fun _ => ⟨(rfl : (table 0x25).length = 2), rfl⟩
theorem andImm (b1 : Byte) : Statement (.andImm b1) :=
  fun _ => ⟨(rfl : (table 0x29).length = 2), rfl⟩
theorem andAbs (b1 b2 : Byte) : Statement (.andAbs b1 b2) :=
  fun _ => ⟨(rfl : (table 0x2D).length = 3), rfl⟩
theorem andIzy (b1 : Byte) : Statement (.andIzy b1) :=
  fun _ => ⟨(rfl : (table 0x31).length = 2), rfl⟩
theorem andZpx (b1 : Byte) : Statement (.andZpx b1) :=
  fun _ => ⟨(rfl : (table 0x35).length = 2), rfl⟩
theorem andAby (b1 b2 : Byte) : Statement (.andAby b1 b2) :=
  fun _ => ⟨(rfl : (table 0x39).length = 3), rfl⟩
theorem andAbx (b1 b2 : Byte) : Statement (.andAbx b1 b2) :=
  fun _ => ⟨(rfl : (table 0x3D).length = 3), rfl⟩
theorem oraIzx (b1 : Byte) : Statement (.oraIzx b1) :=
  fun _ => ⟨(rfl : (table 0x01).length = 2), rfl⟩
theorem oraZp (b1 : Byte) : Statement (.oraZp b1) :=
  fun _ => ⟨(rfl : (table 0x05).length = 2), rfl⟩
theorem oraImm (b1 : Byte) : Statement (.oraImm b1) :=
  fun _ => ⟨(rfl : (table 0x09).length = 2), rfl⟩
theorem oraAbs (b1 b2 : Byte) : Statement (.oraAbs b1 b2) :=
  fun _ => ⟨(rfl : (table 0x0D).length = 3), rfl⟩
theorem oraIzy (b1 : Byte) : Statement (.oraIzy b1) :=
  fun _ => ⟨(rfl : (table 0x11).length = 2), rfl⟩
theorem oraZpx (b1 : Byte) : Statement (.oraZpx b1) :=
  fun _ => ⟨(rfl : (table 0x15).length = 2), rfl⟩
theorem oraAby (b1 b2 : Byte) : Statement (.oraAby b1 b2) :=
  fun _ => ⟨(rfl : (table 0x19).length = 3), rfl⟩
theorem oraAbx (b1 b2 : Byte) : Statement (.oraAbx b1 b2) :=
  fun _ => ⟨(rfl : (table 0x1D).length = 3), rfl⟩
theorem eorIzx (b1 : Byte) : Statement (.eorIzx b1) :=
  fun _ => ⟨(rfl : (table 0x41).length = 2), rfl⟩
theorem eorZp (b1 : Byte) : Statement (.eorZp b1) :=
  fun _ => ⟨(rfl : (table 0x45).length = 2), rfl⟩
theorem eorImm (b1 : Byte) : Statement (.eorImm b1) :=
  fun _ => ⟨(rfl : (table 0x49).length = 2), rfl⟩
theorem eorAbs (b1 b2 : Byte) : Statement (.eorAbs b1 b2) :=
  fun _ => ⟨(rfl : (table 0x4D).length = 3), rfl⟩
theorem eorIzy (b1 : Byte) : Statement (.eorIzy b1) :=
  fun _ => ⟨(rfl : (table 0x51).length = 2), rfl⟩
theorem eorZpx (b1 : Byte) : Statement (.eorZpx b1) :=
  fun _ => ⟨(rfl : (table 0x55).length = 2), rfl⟩
theorem eorAby (b1 b2 : Byte) : Statement (.eorAby b1 b2) :=
  fun _ => ⟨(rfl : (table 0x59).length = 3), rfl⟩
theorem eorAbx (b1 b2 : Byte) : Statement (.eorAbx b1 b2) :=
  fun _ => ⟨(rfl : (table 0x5D).length = 3), rfl⟩
theorem bitZp (b1 : Byte) : Statement (.bitZp b1) :=
  fun _ => ⟨(rfl : (table 0x24).length = 2), rfl⟩
theorem bitAbs (b1 b2 : Byte) : Statement (.bitAbs b1 b2) :=
  fun _ => ⟨(rfl : (table 0x2C).length = 3), rfl⟩
theorem aslZp (b1 : Byte) : Statement (.aslZp b1) :=
  fun _ => ⟨(rfl : (table 0x06).length = 2), rfl⟩
theorem aslAcc : Statement .aslAcc :=
  fun _ => ⟨(rfl : (table 0x0A).length = 1), rfl⟩
theorem aslAbs (b1 b2 : Byte) : Statement (.aslAbs b1 b2) :=
  fun _ => ⟨(rfl : (table 0x0E).length = 3), rfl⟩
theorem aslZpx (b1 : Byte) : Statement (.aslZpx b1) :=
  fun _ => ⟨(rfl : (table 0x16).length = 2), rfl⟩
theorem aslAbx (b1 b2 : Byte) : Statement (.aslAbx b1 b2) :=
  fun _ => ⟨(rfl : (table 0x1E).length = 3), rfl⟩
theorem lsrZp (b1 : Byte) : Statement (.lsrZp b1) :=
  fun _ => ⟨(rfl : (table 0x46).length = 2), rfl⟩
theorem lsrAcc : Statement .lsrAcc :=
  fun _ => ⟨(rfl : (table 0x4A).length = 1), rfl⟩
theorem lsrAbs (b1 b2 : Byte) : Statement (.lsrAbs b1 b2) :=
  fun _ => ⟨(rfl : (table 0x4E).length = 3), rfl⟩
theorem lsrZpx (b1 : Byte) : Statement (.lsrZpx b1) :=
  fun _ => ⟨(rfl : (table 0x56).length = 2), rfl⟩
theorem lsrAbx (b1 b2 : Byte) : Statement (.lsrAbx b1 b2) :=
  fun _ => ⟨(rfl : (table 0x5E).length = 3), rfl⟩
theorem rolZp (b1 : Byte) : Statement (.rolZp b1) :=
  fun _ => ⟨(rfl : (table 0x26).length = 2), rfl⟩
theorem rolAcc : Statement .rolAcc :=
  fun _ => ⟨(rfl : (table 0x2A).length = 1), rfl⟩
theorem rolAbs (b1 b2 : Byte) : Statement (.rolAbs b1 b2) :=
  fun _ => ⟨(rfl : (table 0x2E).length = 3), rfl⟩
theorem rolZpx (b1 : Byte) : Statement (.rolZpx b1) :=
  fun _ => ⟨(rfl : (table 0x36).length = 2), rfl⟩
theorem rolAbx (b1 b2 : Byte) : Statement (.rolAbx b1 b2) :=
  fun _ => ⟨(rfl : (table 0x3E).length = 3), rfl⟩
theorem rorZp (b1 : Byte) : Statement (.rorZp b1) :=
  fun _ => ⟨(rfl : (table 0x66).length = 2), rfl⟩
theorem rorAcc : Statement .rorAcc :=
  fun _ => ⟨(rfl : (table 0x6A).length = 1), rfl⟩
theorem rorAbs (b1 b2 : Byte) : Statement (.rorAbs b1 b2) :=
  fun _ => ⟨(rfl : (table 0x6E).length = 3), rfl⟩
theorem rorZpx (b1 : Byte) : Statement (.rorZpx b1) :=
  fun _ => ⟨(rfl : (table 0x76).length = 2), rfl⟩
theorem rorAbx (b1 b2 : Byte) : Statement (.rorAbx b1 b2) :=
  fun _ => ⟨(rfl : (table 0x7E).length = 3), rfl⟩
theorem bcc (b1 : Byte) : Statement (.bcc b1) :=
  fun _ => ⟨(rfl : (table 0x90).length = 2), rfl⟩
theorem bcs (b1 : Byte) : Statement (.bcs b1) :=
  fun _ => ⟨(rfl : (table 0xB0).length = 2), rfl⟩
theorem beq (b1 : Byte) : Statement (.beq b1) :=
  fun _ => ⟨(rfl : (table 0xF0).length = 2), rfl⟩
theorem bne (b1 : Byte) : Statement (.bne b1) :=
  fun _ => ⟨(rfl : (table 0xD0).length = 2), rfl⟩
theorem bmi (b1 : Byte) : Statement (.bmi b1) :=
  fun _ => ⟨(rfl : (table 0x30).length = 2), rfl⟩
theorem bpl (b1 : Byte) : Statement (.bpl b1) :=
  fun _ => ⟨(rfl : (table 0x10).length = 2), rfl⟩
theorem bvc (b1 : Byte) : Statement (.bvc b1) :=
  fun _ => ⟨(rfl : (table 0x50).length = 2), rfl⟩
theorem bvs (b1 : Byte) : Statement (.bvs b1) :=
  fun _ => ⟨(rfl : (table 0x70).length = 2), rfl⟩
theorem jmpAbs (b1 b2 : Byte) : Statement (.jmpAbs b1 b2) :=
  fun _ => ⟨(rfl : (table 0x4C).length = 3), rfl⟩
theorem jmpInd (b1 b2 : Byte) : Statement (.jmpInd b1 b2) :=
  fun _ => ⟨(rfl : (table 0x6C).length = 3), rfl⟩
theorem jsr (b1 b2 : Byte) : Statement (.jsr b1 b2) :=
  fun _ => ⟨(rfl : (table 0x20).length = 3), rfl⟩
theorem rts : Statement .rts :=
  fun _ => ⟨(rfl : (table 0x60).length = 1), rfl⟩
theorem brk (signature : Byte) : Statement (.brk signature) :=
  fun _ => ⟨(rfl : (table 0x00).length = 2), rfl⟩
theorem rti : Statement .rti :=
  fun _ => ⟨(rfl : (table 0x40).length = 1), rfl⟩
theorem clc : Statement .clc :=
  fun _ => ⟨(rfl : (table 0x18).length = 1), rfl⟩
theorem sec : Statement .sec :=
  fun _ => ⟨(rfl : (table 0x38).length = 1), rfl⟩
theorem cld : Statement .cld :=
  fun _ => ⟨(rfl : (table 0xD8).length = 1), rfl⟩
theorem sed : Statement .sed :=
  fun _ => ⟨(rfl : (table 0xF8).length = 1), rfl⟩
theorem cli : Statement .cli :=
  fun _ => ⟨(rfl : (table 0x58).length = 1), rfl⟩
theorem sei : Statement .sei :=
  fun _ => ⟨(rfl : (table 0x78).length = 1), rfl⟩
theorem clv : Statement .clv :=
  fun _ => ⟨(rfl : (table 0xB8).length = 1), rfl⟩
theorem nop : Statement .nop :=
  fun _ => ⟨(rfl : (table 0xEA).length = 1), rfl⟩

/-- Each of the 105 bytes of R99 has a one-byte entry and selects itself. -/
theorem undefined_entries : ∀ opcode : Byte, undefinedOpcodes.contains opcode = true →
    (table opcode).length = 1 ∧ instrOf opcode 0 0 = .undefined opcode := by
  decide +kernel

theorem undefined (opcode : Byte) : Statement (.undefined opcode) := fun h => undefined_entries opcode h

end Sys2Proof.Laws.Encoding

namespace Sys2Proof

/-- Every entry's length is 1, 2 or 3 (R5). -/
theorem table_length : ∀ opcode : Byte,
    (table opcode).length = 1 ∨ (table opcode).length = 2 ∨ (table opcode).length = 3 := by
  decide +kernel

/-- The instruction an opcode selects has that opcode. -/
theorem instrOf_opcode (opcode b1 b2 : Byte) : (instrOf opcode b1 b2).opcode = opcode := by
  unfold instrOf
  split <;> first | rfl | (apply BitVec.eq_of_toNat_eq; symm; assumption)

end Sys2Proof
end

