-- ==== Sys2Proof/Tests/Slice0.lean ====
section
/-! SUPPORT. The model's own tests: the well-formedness smoke test, the decoding of every constructor by a word written
out from spec/30_encoding.md R91 and R95, one step of each mnemonic on vectors of spec/95_test_vectors.md, the
interrupts, reset and the Debugger on the examples of spec/60_exceptions.md and spec/70_reset_and_hazards.md, and a
witness for the hypotheses of every statement. -/

namespace Sys2Proof.Tests

open Sys2Proof Sys2Proof.Machine

/-! ### Well-formedness -/

/-- The one check: an undefined entry's byte is one of R99. -/
theorem test_wellFormed_refuses_a_documented_opcode :
    ¬ WellFormed (.undefined 0xEA) ∧ ¬ WellFormed (.undefined 0x00) ∧ WellFormed (.undefined 0xFF) ∧
    WellFormed (.undefined 0x02) ∧ undefinedOpcodes.length = 105 := by decide

/-! ### Decoding (R91, R95): opcode, then the low byte, then the high byte -/

theorem test_decode_lda :
    decodeTableWord 16 0x34A1 = some (.ldaIzx 0x34) ∧
    decodeTableWord 16 0x34A5 = some (.ldaZp 0x34) ∧
    decodeTableWord 16 0x34A9 = some (.ldaImm 0x34) ∧
    decodeTableWord 24 0x9234AD = some (.ldaAbs 0x34 0x92) ∧
    decodeTableWord 16 0x34B1 = some (.ldaIzy 0x34) ∧
    decodeTableWord 16 0x34B5 = some (.ldaZpx 0x34) ∧
    decodeTableWord 24 0x9234B9 = some (.ldaAby 0x34 0x92) ∧
    decodeTableWord 24 0x9234BD = some (.ldaAbx 0x34 0x92) := by decide

theorem test_decode_ldx :
    decodeTableWord 16 0x34A2 = some (.ldxImm 0x34) ∧
    decodeTableWord 16 0x34A6 = some (.ldxZp 0x34) ∧
    decodeTableWord 24 0x9234AE = some (.ldxAbs 0x34 0x92) ∧
    decodeTableWord 16 0x34B6 = some (.ldxZpy 0x34) ∧
    decodeTableWord 24 0x9234BE = some (.ldxAby 0x34 0x92) := by decide

theorem test_decode_ldy :
    decodeTableWord 16 0x34A0 = some (.ldyImm 0x34) ∧
    decodeTableWord 16 0x34A4 = some (.ldyZp 0x34) ∧
    decodeTableWord 24 0x9234AC = some (.ldyAbs 0x34 0x92) ∧
    decodeTableWord 16 0x34B4 = some (.ldyZpx 0x34) ∧
    decodeTableWord 24 0x9234BC = some (.ldyAbx 0x34 0x92) := by decide

theorem test_decode_sta :
    decodeTableWord 16 0x3481 = some (.staIzx 0x34) ∧
    decodeTableWord 16 0x3485 = some (.staZp 0x34) ∧
    decodeTableWord 24 0x92348D = some (.staAbs 0x34 0x92) ∧
    decodeTableWord 16 0x3491 = some (.staIzy 0x34) ∧
    decodeTableWord 16 0x3495 = some (.staZpx 0x34) ∧
    decodeTableWord 24 0x923499 = some (.staAby 0x34 0x92) ∧
    decodeTableWord 24 0x92349D = some (.staAbx 0x34 0x92) := by decide

theorem test_decode_stx :
    decodeTableWord 16 0x3486 = some (.stxZp 0x34) ∧
    decodeTableWord 24 0x92348E = some (.stxAbs 0x34 0x92) ∧
    decodeTableWord 16 0x3496 = some (.stxZpy 0x34) := by decide

theorem test_decode_sty :
    decodeTableWord 16 0x3484 = some (.styZp 0x34) ∧
    decodeTableWord 24 0x92348C = some (.styAbs 0x34 0x92) ∧
    decodeTableWord 16 0x3494 = some (.styZpx 0x34) := by decide

theorem test_decode_tax :
    decodeTableWord 8 0xAA = some .tax := by decide

theorem test_decode_tay :
    decodeTableWord 8 0xA8 = some .tay := by decide

theorem test_decode_txa :
    decodeTableWord 8 0x8A = some .txa := by decide

theorem test_decode_tya :
    decodeTableWord 8 0x98 = some .tya := by decide

theorem test_decode_tsx :
    decodeTableWord 8 0xBA = some .tsx := by decide

theorem test_decode_txs :
    decodeTableWord 8 0x9A = some .txs := by decide

theorem test_decode_pha :
    decodeTableWord 8 0x48 = some .pha := by decide

theorem test_decode_php :
    decodeTableWord 8 0x08 = some .php := by decide

theorem test_decode_pla :
    decodeTableWord 8 0x68 = some .pla := by decide

theorem test_decode_plp :
    decodeTableWord 8 0x28 = some .plp := by decide

theorem test_decode_adc :
    decodeTableWord 16 0x3461 = some (.adcIzx 0x34) ∧
    decodeTableWord 16 0x3465 = some (.adcZp 0x34) ∧
    decodeTableWord 16 0x3469 = some (.adcImm 0x34) ∧
    decodeTableWord 24 0x92346D = some (.adcAbs 0x34 0x92) ∧
    decodeTableWord 16 0x3471 = some (.adcIzy 0x34) ∧
    decodeTableWord 16 0x3475 = some (.adcZpx 0x34) ∧
    decodeTableWord 24 0x923479 = some (.adcAby 0x34 0x92) ∧
    decodeTableWord 24 0x92347D = some (.adcAbx 0x34 0x92) := by decide

theorem test_decode_sbc :
    decodeTableWord 16 0x34E1 = some (.sbcIzx 0x34) ∧
    decodeTableWord 16 0x34E5 = some (.sbcZp 0x34) ∧
    decodeTableWord 16 0x34E9 = some (.sbcImm 0x34) ∧
    decodeTableWord 24 0x9234ED = some (.sbcAbs 0x34 0x92) ∧
    decodeTableWord 16 0x34F1 = some (.sbcIzy 0x34) ∧
    decodeTableWord 16 0x34F5 = some (.sbcZpx 0x34) ∧
    decodeTableWord 24 0x9234F9 = some (.sbcAby 0x34 0x92) ∧
    decodeTableWord 24 0x9234FD = some (.sbcAbx 0x34 0x92) := by decide

theorem test_decode_cmp :
    decodeTableWord 16 0x34C1 = some (.cmpIzx 0x34) ∧
    decodeTableWord 16 0x34C5 = some (.cmpZp 0x34) ∧
    decodeTableWord 16 0x34C9 = some (.cmpImm 0x34) ∧
    decodeTableWord 24 0x9234CD = some (.cmpAbs 0x34 0x92) ∧
    decodeTableWord 16 0x34D1 = some (.cmpIzy 0x34) ∧
    decodeTableWord 16 0x34D5 = some (.cmpZpx 0x34) ∧
    decodeTableWord 24 0x9234D9 = some (.cmpAby 0x34 0x92) ∧
    decodeTableWord 24 0x9234DD = some (.cmpAbx 0x34 0x92) := by decide

theorem test_decode_cpx :
    decodeTableWord 16 0x34E0 = some (.cpxImm 0x34) ∧
    decodeTableWord 16 0x34E4 = some (.cpxZp 0x34) ∧
    decodeTableWord 24 0x9234EC = some (.cpxAbs 0x34 0x92) := by decide

theorem test_decode_cpy :
    decodeTableWord 16 0x34C0 = some (.cpyImm 0x34) ∧
    decodeTableWord 16 0x34C4 = some (.cpyZp 0x34) ∧
    decodeTableWord 24 0x9234CC = some (.cpyAbs 0x34 0x92) := by decide

theorem test_decode_inc :
    decodeTableWord 16 0x34E6 = some (.incZp 0x34) ∧
    decodeTableWord 24 0x9234EE = some (.incAbs 0x34 0x92) ∧
    decodeTableWord 16 0x34F6 = some (.incZpx 0x34) ∧
    decodeTableWord 24 0x9234FE = some (.incAbx 0x34 0x92) := by decide

theorem test_decode_dec :
    decodeTableWord 16 0x34C6 = some (.decZp 0x34) ∧
    decodeTableWord 24 0x9234CE = some (.decAbs 0x34 0x92) ∧
    decodeTableWord 16 0x34D6 = some (.decZpx 0x34) ∧
    decodeTableWord 24 0x9234DE = some (.decAbx 0x34 0x92) := by decide

theorem test_decode_inx :
    decodeTableWord 8 0xE8 = some .inx := by decide

theorem test_decode_iny :
    decodeTableWord 8 0xC8 = some .iny := by decide

theorem test_decode_dex :
    decodeTableWord 8 0xCA = some .dex := by decide

theorem test_decode_dey :
    decodeTableWord 8 0x88 = some .dey := by decide

theorem test_decode_and :
    decodeTableWord 16 0x3421 = some (.andIzx 0x34) ∧
    decodeTableWord 16 0x3425 = some (.andZp 0x34) ∧
    decodeTableWord 16 0x3429 = some (.andImm 0x34) ∧
    decodeTableWord 24 0x92342D = some (.andAbs 0x34 0x92) ∧
    decodeTableWord 16 0x3431 = some (.andIzy 0x34) ∧
    decodeTableWord 16 0x3435 = some (.andZpx 0x34) ∧
    decodeTableWord 24 0x923439 = some (.andAby 0x34 0x92) ∧
    decodeTableWord 24 0x92343D = some (.andAbx 0x34 0x92) := by decide

theorem test_decode_ora :
    decodeTableWord 16 0x3401 = some (.oraIzx 0x34) ∧
    decodeTableWord 16 0x3405 = some (.oraZp 0x34) ∧
    decodeTableWord 16 0x3409 = some (.oraImm 0x34) ∧
    decodeTableWord 24 0x92340D = some (.oraAbs 0x34 0x92) ∧
    decodeTableWord 16 0x3411 = some (.oraIzy 0x34) ∧
    decodeTableWord 16 0x3415 = some (.oraZpx 0x34) ∧
    decodeTableWord 24 0x923419 = some (.oraAby 0x34 0x92) ∧
    decodeTableWord 24 0x92341D = some (.oraAbx 0x34 0x92) := by decide

theorem test_decode_eor :
    decodeTableWord 16 0x3441 = some (.eorIzx 0x34) ∧
    decodeTableWord 16 0x3445 = some (.eorZp 0x34) ∧
    decodeTableWord 16 0x3449 = some (.eorImm 0x34) ∧
    decodeTableWord 24 0x92344D = some (.eorAbs 0x34 0x92) ∧
    decodeTableWord 16 0x3451 = some (.eorIzy 0x34) ∧
    decodeTableWord 16 0x3455 = some (.eorZpx 0x34) ∧
    decodeTableWord 24 0x923459 = some (.eorAby 0x34 0x92) ∧
    decodeTableWord 24 0x92345D = some (.eorAbx 0x34 0x92) := by decide

theorem test_decode_bit :
    decodeTableWord 16 0x3424 = some (.bitZp 0x34) ∧
    decodeTableWord 24 0x92342C = some (.bitAbs 0x34 0x92) := by decide

theorem test_decode_asl :
    decodeTableWord 16 0x3406 = some (.aslZp 0x34) ∧
    decodeTableWord 8 0x0A = some .aslAcc ∧
    decodeTableWord 24 0x92340E = some (.aslAbs 0x34 0x92) ∧
    decodeTableWord 16 0x3416 = some (.aslZpx 0x34) ∧
    decodeTableWord 24 0x92341E = some (.aslAbx 0x34 0x92) := by decide

theorem test_decode_lsr :
    decodeTableWord 16 0x3446 = some (.lsrZp 0x34) ∧
    decodeTableWord 8 0x4A = some .lsrAcc ∧
    decodeTableWord 24 0x92344E = some (.lsrAbs 0x34 0x92) ∧
    decodeTableWord 16 0x3456 = some (.lsrZpx 0x34) ∧
    decodeTableWord 24 0x92345E = some (.lsrAbx 0x34 0x92) := by decide

theorem test_decode_rol :
    decodeTableWord 16 0x3426 = some (.rolZp 0x34) ∧
    decodeTableWord 8 0x2A = some .rolAcc ∧
    decodeTableWord 24 0x92342E = some (.rolAbs 0x34 0x92) ∧
    decodeTableWord 16 0x3436 = some (.rolZpx 0x34) ∧
    decodeTableWord 24 0x92343E = some (.rolAbx 0x34 0x92) := by decide

theorem test_decode_ror :
    decodeTableWord 16 0x3466 = some (.rorZp 0x34) ∧
    decodeTableWord 8 0x6A = some .rorAcc ∧
    decodeTableWord 24 0x92346E = some (.rorAbs 0x34 0x92) ∧
    decodeTableWord 16 0x3476 = some (.rorZpx 0x34) ∧
    decodeTableWord 24 0x92347E = some (.rorAbx 0x34 0x92) := by decide

theorem test_decode_bcc :
    decodeTableWord 16 0x3490 = some (.bcc 0x34) := by decide

theorem test_decode_bcs :
    decodeTableWord 16 0x34B0 = some (.bcs 0x34) := by decide

theorem test_decode_beq :
    decodeTableWord 16 0x34F0 = some (.beq 0x34) := by decide

theorem test_decode_bne :
    decodeTableWord 16 0x34D0 = some (.bne 0x34) := by decide

theorem test_decode_bmi :
    decodeTableWord 16 0x3430 = some (.bmi 0x34) := by decide

theorem test_decode_bpl :
    decodeTableWord 16 0x3410 = some (.bpl 0x34) := by decide

theorem test_decode_bvc :
    decodeTableWord 16 0x3450 = some (.bvc 0x34) := by decide

theorem test_decode_bvs :
    decodeTableWord 16 0x3470 = some (.bvs 0x34) := by decide

theorem test_decode_jmp :
    decodeTableWord 24 0x92344C = some (.jmpAbs 0x34 0x92) ∧
    decodeTableWord 24 0x92346C = some (.jmpInd 0x34 0x92) := by decide

theorem test_decode_jsr :
    decodeTableWord 24 0x923420 = some (.jsr 0x34 0x92) := by decide

theorem test_decode_rts :
    decodeTableWord 8 0x60 = some .rts := by decide

theorem test_decode_brk :
    decodeTableWord 16 0x3400 = some (.brk 0x34) := by decide

theorem test_decode_rti :
    decodeTableWord 8 0x40 = some .rti := by decide

theorem test_decode_clc :
    decodeTableWord 8 0x18 = some .clc := by decide

theorem test_decode_sec :
    decodeTableWord 8 0x38 = some .sec := by decide

theorem test_decode_cld :
    decodeTableWord 8 0xD8 = some .cld := by decide

theorem test_decode_sed :
    decodeTableWord 8 0xF8 = some .sed := by decide

theorem test_decode_cli :
    decodeTableWord 8 0x58 = some .cli := by decide

theorem test_decode_sei :
    decodeTableWord 8 0x78 = some .sei := by decide

theorem test_decode_clv :
    decodeTableWord 8 0xB8 = some .clv := by decide

theorem test_decode_nop :
    decodeTableWord 8 0xEA = some .nop := by decide

theorem test_decode_undefined :
    decodeTableWord 8 0x02 = some (.undefined 0x02) ∧ decodeTableWord 8 0x80 = some (.undefined 0x80) ∧
    decodeTableWord 8 0xFF = some (.undefined 0xFF) ∧ (table 0x9C).mnemonic.text = "???" := by decide

/-- A sequence that ends before its instruction does is refused by name. -/
theorem test_decode_truncated :
    decode [] = .error .noBytes ∧ decode [0xA5] = .error (.truncated 0xA5) ∧
    decode [0x00] = .error (.truncated 0x00) := ⟨rfl, rfl, rfl⟩

/-! ### One step on a small state -/

/-- A state of the vectors' configuration: registers, PC, flags, the bytes in memory. -/
def start (a x y sp : Byte) (pc : Word) (p : Flags) (cells : List (Word × Byte)) : State :=
  cells.foldl (fun s c => s.poke c.1 c.2)
    { State.reset with a := a, x := x, y := y, sp := sp, pc := pc, p := p }

/-- Flags from the six a vector lists: N, V, D, I, Z, C. -/
def fl (n v d i z c : Bool) : Flags := { n := n, v := v, b := false, d := d, i := i, z := z, c := c }

/-- Every flag clear. -/
def f0 : Flags := fl false false false false false false

/-- The bytes a bus log writes, each after its address. -/
def writesOf : List BusEntry → List Nat
  | [] => []
  | ⟨.write, a, v⟩ :: rest => a.toNat :: v.toNat :: writesOf rest
  | ⟨.stackWrite, a, v⟩ :: rest => a.toNat :: v.toNat :: writesOf rest
  | _ :: rest => writesOf rest

/-- A, X, Y, SP, PC, the status byte with bit 4 clear, the cycles, and the writes of the last step. -/
def seen (s : State) : List Nat :=
  [s.a.toNat, s.x.toNat, s.y.toNat, s.sp.toNat, s.pc.toNat, (packP s.p false).toNat, s.cycles] ++
    match s.lastStep with
    | some r => writesOf r.busLog
    | none => []

/-- What one step leaves. -/
def after (s : State) : List Nat :=
  match step s with
  | .next t => seen t
  | _ => []

/-- Vectors: LDA zp,X wraps in page 0; LDA abs,X wraps at 0xFFFF; LDA (zp),Y pointer at 0xFF. -/
theorem test_step_lda :
    after (start 0x00 0x20 0x00 0xFD 0x0200 f0 [(0x0200, 0xB5), (0x0201, 0xF0), (0x0010, 0x42), (0x0110, 0x99)]) =
      [0x42, 0x20, 0x00, 0xFD, 0x0202, 0x20, 4] ∧
    after (start 0x00 0x01 0x00 0xFD 0x0200 f0 [(0x0200, 0xBD), (0x0201, 0xFF), (0x0202, 0xFF), (0x0000, 0x33)]) =
      [0x33, 0x01, 0x00, 0xFD, 0x0203, 0x20, 5] ∧
    after (start 0x00 0x00 0x00 0xFD 0x0200 f0 [(0x0200, 0xB1), (0x0201, 0xFF), (0x0000, 0x30), (0x00FF, 0x00), (0x3000, 0x22)]) =
      [0x22, 0x00, 0x00, 0xFD, 0x0202, 0x20, 5] := by decide

/-- Vectors: LDX zp,Y wraps in page 0; LDX abs,Y crossing. -/
theorem test_step_ldx :
    after (start 0x00 0x00 0x20 0xFD 0x0200 f0 [(0x0200, 0xB6), (0x0201, 0xF0), (0x0010, 0x42)]) =
      [0x00, 0x42, 0x20, 0xFD, 0x0202, 0x20, 4] ∧
    after (start 0x00 0x00 0x01 0xFD 0x0200 f0 [(0x0200, 0xBE), (0x0201, 0xFF), (0x0202, 0x12), (0x1300, 0x00)]) =
      [0x00, 0x00, 0x01, 0xFD, 0x0203, 0x22, 5] := by decide

/-- Vectors: LDY abs,X crossing; LDY #$7F. -/
theorem test_step_ldy :
    after (start 0x00 0x01 0x00 0xFD 0x0200 f0 [(0x0200, 0xBC), (0x0201, 0xFF), (0x0202, 0x12), (0x1300, 0x05)]) =
      [0x00, 0x01, 0x05, 0xFD, 0x0203, 0x20, 5] ∧
    after (start 0x00 0x00 0x00 0xFD 0x0200 (fl true false false false true false) [(0x0200, 0xA0), (0x0201, 0x7F)]) =
      [0x00, 0x00, 0x7F, 0xFD, 0x0202, 0x20, 2] := by decide

/-- Vectors: STA abs,X crossing: no penalty; STA (zp,X). -/
theorem test_step_sta :
    after (start 0x77 0x20 0x00 0xFD 0x0200 f0 [(0x0200, 0x9D), (0x0201, 0xF0), (0x0202, 0x12)]) =
      [0x77, 0x20, 0x00, 0xFD, 0x0203, 0x20, 5, 0x1310, 0x77] ∧
    after (start 0xAB 0x02 0x00 0xFD 0x0200 f0 [(0x0200, 0x81), (0x0201, 0x20), (0x0022, 0x00), (0x0023, 0x30)]) =
      [0xAB, 0x02, 0x00, 0xFD, 0x0202, 0x20, 6, 0x3000, 0xAB] := by decide

/-- Vectors: STX zp,Y; STX abs. -/
theorem test_step_stx :
    after (start 0x00 0x80 0x05 0xFD 0x0200 f0 [(0x0200, 0x96), (0x0201, 0x10)]) =
      [0x00, 0x80, 0x05, 0xFD, 0x0202, 0x20, 4, 0x0015, 0x80] ∧
    after (start 0x00 0x12 0x00 0xFD 0x0200 f0 [(0x0200, 0x8E), (0x0201, 0x00), (0x0202, 0x30)]) =
      [0x00, 0x12, 0x00, 0xFD, 0x0203, 0x20, 4, 0x3000, 0x12] := by decide

/-- Vectors: STY zp,X wraps; STY abs. -/
theorem test_step_sty :
    after (start 0x00 0x02 0x34 0xFD 0x0200 f0 [(0x0200, 0x94), (0x0201, 0xFF)]) =
      [0x00, 0x02, 0x34, 0xFD, 0x0202, 0x20, 4, 0x0001, 0x34] ∧
    after (start 0x00 0x00 0x56 0xFD 0x0200 f0 [(0x0200, 0x8C), (0x0201, 0x00), (0x0202, 0x30)]) =
      [0x00, 0x00, 0x56, 0xFD, 0x0203, 0x20, 4, 0x3000, 0x56] := by decide

/-- Vectors: TAX zero. -/
theorem test_step_tax :
    after (start 0x00 0x55 0x00 0xFD 0x0200 f0 [(0x0200, 0xAA)]) =
      [0x00, 0x00, 0x00, 0xFD, 0x0201, 0x22, 2] := by decide

/-- Vectors: TAY negative. -/
theorem test_step_tay :
    after (start 0x90 0x00 0x00 0xFD 0x0200 f0 [(0x0200, 0xA8)]) =
      [0x90, 0x00, 0x90, 0xFD, 0x0201, 0xA0, 2] := by decide

/-- Vectors: TXA. -/
theorem test_step_txa :
    after (start 0xFF 0x01 0x00 0xFD 0x0200 (fl true false false false false false) [(0x0200, 0x8A)]) =
      [0x01, 0x01, 0x00, 0xFD, 0x0201, 0x20, 2] := by decide

/-- Vectors: TYA zero. -/
theorem test_step_tya :
    after (start 0x12 0x00 0x00 0xFD 0x0200 f0 [(0x0200, 0x98)]) =
      [0x00, 0x00, 0x00, 0xFD, 0x0201, 0x22, 2] := by decide

/-- Vectors: TSX negative. -/
theorem test_step_tsx :
    after (start 0x00 0x00 0x00 0xFD 0x0200 f0 [(0x0200, 0xBA)]) =
      [0x00, 0xFD, 0x00, 0xFD, 0x0201, 0xA0, 2] := by decide

/-- Vectors: TXS writes no flag. -/
theorem test_step_txs :
    after (start 0x00 0x00 0x00 0xFD 0x0200 (fl true false false false false false) [(0x0200, 0x9A)]) =
      [0x00, 0x00, 0x00, 0x00, 0x0201, 0xA0, 2] := by decide

/-- Vectors: PHA; PHA with SP = 0x00 wraps. -/
theorem test_step_pha :
    after (start 0x5A 0x00 0x00 0xFD 0x0200 f0 [(0x0200, 0x48)]) =
      [0x5A, 0x00, 0x00, 0xFC, 0x0201, 0x20, 3, 0x01FD, 0x5A] ∧
    after (start 0x5A 0x00 0x00 0x00 0x0200 f0 [(0x0200, 0x48)]) =
      [0x5A, 0x00, 0x00, 0xFF, 0x0201, 0x20, 3, 0x0100, 0x5A] := by decide

/-- Vectors: PHP pushes B = 1, U = 1; PHP with N, I, C. -/
theorem test_step_php :
    after (start 0x00 0x00 0x00 0xFD 0x0200 f0 [(0x0200, 0x08)]) =
      [0x00, 0x00, 0x00, 0xFC, 0x0201, 0x20, 3, 0x01FD, 0x30] ∧
    after (start 0x00 0x00 0x00 0xFD 0x0200 (fl true false false true false true) [(0x0200, 0x08)]) =
      [0x00, 0x00, 0x00, 0xFC, 0x0201, 0xA5, 3, 0x01FD, 0xB5] := by decide

/-- Vectors: PLA negative; PLA with SP = 0xFF wraps. -/
theorem test_step_pla :
    after (start 0x00 0x00 0x00 0xFC 0x0200 f0 [(0x0200, 0x68), (0x01FD, 0x80)]) =
      [0x80, 0x00, 0x00, 0xFD, 0x0201, 0xA0, 4] ∧
    after (start 0x00 0x00 0x00 0xFF 0x0200 f0 [(0x0200, 0x68), (0x0100, 0x01)]) =
      [0x01, 0x00, 0x00, 0x00, 0x0201, 0x20, 4] := by decide

/-- Vectors: PLP 0xFF sets N V D I Z C; PLP 0x30 clears every flag. -/
theorem test_step_plp :
    after (start 0x00 0x00 0x00 0xFC 0x0200 f0 [(0x0200, 0x28), (0x01FD, 0xFF)]) =
      [0x00, 0x00, 0x00, 0xFD, 0x0201, 0xEF, 4] ∧
    after (start 0x00 0x00 0x00 0xFC 0x0200 (fl true true true true true true) [(0x0200, 0x28), (0x01FD, 0x30)]) =
      [0x00, 0x00, 0x00, 0xFD, 0x0201, 0x20, 4] := by decide

/-- Vectors: 0x7F + 0x00 + C; ADC 0xD0 + 0x90: C V; ADC 0x99 + 0x01: Z from binary; ADC invalid 0x0F + 0x01. -/
theorem test_step_adc :
    after (start 0x7F 0x00 0x00 0xFD 0x0200 (fl false false false false false true) [(0x0200, 0x69), (0x0201, 0x00)]) =
      [0x80, 0x00, 0x00, 0xFD, 0x0202, 0xE0, 2] ∧
    after (start 0xD0 0x00 0x00 0xFD 0x0200 f0 [(0x0200, 0x69), (0x0201, 0x90)]) =
      [0x60, 0x00, 0x00, 0xFD, 0x0202, 0x61, 2] ∧
    after (start 0x99 0x00 0x00 0xFD 0x0200 (fl false false true false false false) [(0x0200, 0x69), (0x0201, 0x01)]) =
      [0x00, 0x00, 0x00, 0xFD, 0x0202, 0xA9, 2] ∧
    after (start 0x0F 0x00 0x00 0xFD 0x0200 (fl false false true false false false) [(0x0200, 0x69), (0x0201, 0x01)]) =
      [0x16, 0x00, 0x00, 0xFD, 0x0202, 0x28, 2] := by decide

/-- Vectors: SBC 0x50 - 0xB0 (C = 1): V N; SBC 0x05 - 0x03 (C = 0); SBC 0x00 - 0x01 (C = 1); SBC 0x12 - 0x21 (C = 1). -/
theorem test_step_sbc :
    after (start 0x50 0x00 0x00 0xFD 0x0200 (fl false false false false false true) [(0x0200, 0xE9), (0x0201, 0xB0)]) =
      [0xA0, 0x00, 0x00, 0xFD, 0x0202, 0xE0, 2] ∧
    after (start 0x05 0x00 0x00 0xFD 0x0200 f0 [(0x0200, 0xE9), (0x0201, 0x03)]) =
      [0x01, 0x00, 0x00, 0xFD, 0x0202, 0x21, 2] ∧
    after (start 0x00 0x00 0x00 0xFD 0x0200 (fl false false true false false true) [(0x0200, 0xE9), (0x0201, 0x01)]) =
      [0x99, 0x00, 0x00, 0xFD, 0x0202, 0xA8, 2] ∧
    after (start 0x12 0x00 0x00 0xFD 0x0200 (fl false false true false false true) [(0x0200, 0xE9), (0x0201, 0x21)]) =
      [0x91, 0x00, 0x00, 0xFD, 0x0202, 0xA8, 2] := by decide

/-- Vectors: CMP 0x00 vs 0x80: N from difference; CMP keeps V. -/
theorem test_step_cmp :
    after (start 0x00 0x00 0x00 0xFD 0x0200 f0 [(0x0200, 0xC9), (0x0201, 0x80)]) =
      [0x00, 0x00, 0x00, 0xFD, 0x0202, 0xA0, 2] ∧
    after (start 0x01 0x00 0x00 0xFD 0x0200 (fl false true false false false false) [(0x0200, 0xC9), (0x0201, 0x01)]) =
      [0x01, 0x00, 0x00, 0xFD, 0x0202, 0x63, 2] := by decide

/-- Vectors: CPX #: X < M; CPX zp equal. -/
theorem test_step_cpx :
    after (start 0x00 0x05 0x00 0xFD 0x0200 f0 [(0x0200, 0xE0), (0x0201, 0x10)]) =
      [0x00, 0x05, 0x00, 0xFD, 0x0202, 0xA0, 2] ∧
    after (start 0x00 0x22 0x00 0xFD 0x0200 f0 [(0x0200, 0xE4), (0x0201, 0x10), (0x0010, 0x22)]) =
      [0x00, 0x22, 0x00, 0xFD, 0x0202, 0x23, 3] := by decide

/-- Vectors: CPY abs: Y > M; CPY #: Y < M. -/
theorem test_step_cpy :
    after (start 0x00 0x00 0xFF 0xFD 0x0200 f0 [(0x0200, 0xCC), (0x0201, 0x00), (0x0202, 0x30), (0x3000, 0x00)]) =
      [0x00, 0x00, 0xFF, 0xFD, 0x0203, 0xA1, 4] ∧
    after (start 0x00 0x00 0x00 0xFD 0x0200 f0 [(0x0200, 0xC0), (0x0201, 0xFF)]) =
      [0x00, 0x00, 0x00, 0xFD, 0x0202, 0x20, 2] := by decide

/-- Vectors: INC abs,X crossing: no penalty; INC zp 0xFF wraps. -/
theorem test_step_inc :
    after (start 0x00 0x20 0x00 0xFD 0x0200 f0 [(0x0200, 0xFE), (0x0201, 0xF0), (0x0202, 0x12), (0x1310, 0x41)]) =
      [0x00, 0x20, 0x00, 0xFD, 0x0203, 0x20, 7, 0x1310, 0x42] ∧
    after (start 0x00 0x00 0x00 0xFD 0x0200 (fl false false false false false true) [(0x0200, 0xE6), (0x0201, 0x10), (0x0010, 0xFF)]) =
      [0x00, 0x00, 0x00, 0xFD, 0x0202, 0x23, 5, 0x0010, 0x00] := by decide

/-- Vectors: DEC zp 0x00 wraps; DEC abs,X. -/
theorem test_step_dec :
    after (start 0x00 0x00 0x00 0xFD 0x0200 f0 [(0x0200, 0xC6), (0x0201, 0x10), (0x0010, 0x00)]) =
      [0x00, 0x00, 0x00, 0xFD, 0x0202, 0xA0, 5, 0x0010, 0xFF] ∧
    after (start 0x00 0x01 0x00 0xFD 0x0200 f0 [(0x0200, 0xDE), (0x0201, 0x00), (0x0202, 0x30), (0x3001, 0x00)]) =
      [0x00, 0x01, 0x00, 0xFD, 0x0203, 0xA0, 7, 0x3001, 0xFF] := by decide

/-- Vectors: INX 0xFF wraps; INX 0x7F. -/
theorem test_step_inx :
    after (start 0x00 0xFF 0x00 0xFD 0x0200 f0 [(0x0200, 0xE8)]) =
      [0x00, 0x00, 0x00, 0xFD, 0x0201, 0x22, 2] ∧
    after (start 0x00 0x7F 0x00 0xFD 0x0200 f0 [(0x0200, 0xE8)]) =
      [0x00, 0x80, 0x00, 0xFD, 0x0201, 0xA0, 2] := by decide

/-- Vectors: INY. -/
theorem test_step_iny :
    after (start 0x00 0x00 0x00 0xFD 0x0200 f0 [(0x0200, 0xC8)]) =
      [0x00, 0x00, 0x01, 0xFD, 0x0201, 0x20, 2] := by decide

/-- Vectors: DEX 0x00 wraps. -/
theorem test_step_dex :
    after (start 0x00 0x00 0x00 0xFD 0x0200 f0 [(0x0200, 0xCA)]) =
      [0x00, 0xFF, 0x00, 0xFD, 0x0201, 0xA0, 2] := by decide

/-- Vectors: DEY 0x01; DEY keeps C V D. -/
theorem test_step_dey :
    after (start 0x00 0x00 0x01 0xFD 0x0200 f0 [(0x0200, 0x88)]) =
      [0x00, 0x00, 0x00, 0xFD, 0x0201, 0x22, 2] ∧
    after (start 0x00 0x00 0x05 0xFD 0x0200 (fl false true true false false true) [(0x0200, 0x88)]) =
      [0x00, 0x00, 0x04, 0xFD, 0x0201, 0x69, 2] := by decide

/-- Vectors: AND # to zero; AND (zp),Y. -/
theorem test_step_and :
    after (start 0xF0 0x00 0x00 0xFD 0x0200 f0 [(0x0200, 0x29), (0x0201, 0x0F)]) =
      [0x00, 0x00, 0x00, 0xFD, 0x0202, 0x22, 2] ∧
    after (start 0x3C 0x00 0x00 0xFD 0x0200 f0 [(0x0200, 0x31), (0x0201, 0x40), (0x0040, 0x00), (0x0041, 0x30), (0x3000, 0x0F)]) =
      [0x0C, 0x00, 0x00, 0xFD, 0x0202, 0x20, 5] := by decide

/-- Vectors: ORA #; ORA # zero. -/
theorem test_step_ora :
    after (start 0x01 0x00 0x00 0xFD 0x0200 f0 [(0x0200, 0x09), (0x0201, 0x80)]) =
      [0x81, 0x00, 0x00, 0xFD, 0x0202, 0xA0, 2] ∧
    after (start 0x00 0x00 0x00 0xFD 0x0200 f0 [(0x0200, 0x09), (0x0201, 0x00)]) =
      [0x00, 0x00, 0x00, 0xFD, 0x0202, 0x22, 2] := by decide

/-- Vectors: EOR # to zero; EOR #. -/
theorem test_step_eor :
    after (start 0xFF 0x00 0x00 0xFD 0x0200 f0 [(0x0200, 0x49), (0x0201, 0xFF)]) =
      [0x00, 0x00, 0x00, 0xFD, 0x0202, 0x22, 2] ∧
    after (start 0xFF 0x00 0x00 0xFD 0x0200 f0 [(0x0200, 0x49), (0x0201, 0x0F)]) =
      [0xF0, 0x00, 0x00, 0xFD, 0x0202, 0xA0, 2] := by decide

/-- Vectors: BIT zp: N V from memory, Z from AND; BIT abs: non-zero AND. -/
theorem test_step_bit :
    after (start 0x01 0x00 0x00 0xFD 0x0200 f0 [(0x0200, 0x24), (0x0201, 0x10), (0x0010, 0xC0)]) =
      [0x01, 0x00, 0x00, 0xFD, 0x0202, 0xE2, 3] ∧
    after (start 0x41 0x00 0x00 0xFD 0x0200 (fl true true false false true false) [(0x0200, 0x2C), (0x0201, 0x00), (0x0202, 0x30), (0x3000, 0x01)]) =
      [0x41, 0x00, 0x00, 0xFD, 0x0203, 0x20, 4] := by decide

/-- Vectors: ASL A 0x41; ASL abs,X. -/
theorem test_step_asl :
    after (start 0x41 0x00 0x00 0xFD 0x0200 (fl false false false false false true) [(0x0200, 0x0A)]) =
      [0x82, 0x00, 0x00, 0xFD, 0x0201, 0xA0, 2] ∧
    after (start 0x00 0x01 0x00 0xFD 0x0200 f0 [(0x0200, 0x1E), (0x0201, 0x00), (0x0202, 0x30), (0x3001, 0x01)]) =
      [0x00, 0x01, 0x00, 0xFD, 0x0203, 0x20, 7, 0x3001, 0x02] := by decide

/-- Vectors: LSR A 0x01; LSR zp. -/
theorem test_step_lsr :
    after (start 0x01 0x00 0x00 0xFD 0x0200 (fl true false false false false false) [(0x0200, 0x4A)]) =
      [0x00, 0x00, 0x00, 0xFD, 0x0201, 0x23, 2] ∧
    after (start 0x00 0x00 0x00 0xFD 0x0200 f0 [(0x0200, 0x46), (0x0201, 0x10), (0x0010, 0x02)]) =
      [0x00, 0x00, 0x00, 0xFD, 0x0202, 0x20, 5, 0x0010, 0x01] := by decide

/-- Vectors: ROL A with C; ROL zp. -/
theorem test_step_rol :
    after (start 0x80 0x00 0x00 0xFD 0x0200 (fl false false false false false true) [(0x0200, 0x2A)]) =
      [0x01, 0x00, 0x00, 0xFD, 0x0201, 0x21, 2] ∧
    after (start 0x00 0x00 0x00 0xFD 0x0200 (fl false false false false false true) [(0x0200, 0x26), (0x0201, 0x10), (0x0010, 0x7F)]) =
      [0x00, 0x00, 0x00, 0xFD, 0x0202, 0xA0, 5, 0x0010, 0xFF] := by decide

/-- Vectors: ROR A with C; ROR abs. -/
theorem test_step_ror :
    after (start 0x01 0x00 0x00 0xFD 0x0200 (fl false false false false false true) [(0x0200, 0x6A)]) =
      [0x80, 0x00, 0x00, 0xFD, 0x0201, 0xA1, 2] ∧
    after (start 0x00 0x00 0x00 0xFD 0x0200 f0 [(0x0200, 0x6E), (0x0201, 0x00), (0x0202, 0x30), (0x3000, 0x00)]) =
      [0x00, 0x00, 0x00, 0xFD, 0x0203, 0x22, 6, 0x3000, 0x00] := by decide

/-- Vectors: BCC taken forward; BCC not taken. -/
theorem test_step_bcc :
    after (start 0x00 0x00 0x00 0xFD 0x0200 f0 [(0x0200, 0x90), (0x0201, 0x10)]) =
      [0x00, 0x00, 0x00, 0xFD, 0x0212, 0x20, 3] ∧
    after (start 0x00 0x00 0x00 0xFD 0x0200 (fl false false false false false true) [(0x0200, 0x90), (0x0201, 0x10)]) =
      [0x00, 0x00, 0x00, 0xFD, 0x0202, 0x21, 2] := by decide

/-- Vectors: BCS taken forward; BCS not taken. -/
theorem test_step_bcs :
    after (start 0x00 0x00 0x00 0xFD 0x0200 (fl false false false false false true) [(0x0200, 0xB0), (0x0201, 0x10)]) =
      [0x00, 0x00, 0x00, 0xFD, 0x0212, 0x21, 3] ∧
    after (start 0x00 0x00 0x00 0xFD 0x0200 f0 [(0x0200, 0xB0), (0x0201, 0x10)]) =
      [0x00, 0x00, 0x00, 0xFD, 0x0202, 0x20, 2] := by decide

/-- Vectors: BEQ taken to the next page; BEQ not taken. -/
theorem test_step_beq :
    after (start 0x00 0x00 0x00 0xFD 0x02F0 (fl false false false false true false) [(0x02F0, 0xF0), (0x02F1, 0x7F)]) =
      [0x00, 0x00, 0x00, 0xFD, 0x0371, 0x22, 4] ∧
    after (start 0x00 0x00 0x00 0xFD 0x0200 f0 [(0x0200, 0xF0), (0x0201, 0x10)]) =
      [0x00, 0x00, 0x00, 0xFD, 0x0202, 0x20, 2] := by decide

/-- Vectors: BNE taken back across a page; BNE offset 0xFE loops to itself. -/
theorem test_step_bne :
    after (start 0x00 0x00 0x00 0xFD 0x0200 f0 [(0x0200, 0xD0), (0x0201, 0xFC)]) =
      [0x00, 0x00, 0x00, 0xFD, 0x01FE, 0x20, 4] ∧
    after (start 0x00 0x00 0x00 0xFD 0x0200 f0 [(0x0200, 0xD0), (0x0201, 0xFE)]) =
      [0x00, 0x00, 0x00, 0xFD, 0x0200, 0x20, 3] := by decide

/-- Vectors: BMI wraps past 0xFFFF; BMI not taken. -/
theorem test_step_bmi :
    after (start 0x00 0x00 0x00 0xFD 0xFFFE (fl true false false false false false) [(0xFFFE, 0x30), (0xFFFF, 0x02)]) =
      [0x00, 0x00, 0x00, 0xFD, 0x0002, 0xA0, 3] ∧
    after (start 0x00 0x00 0x00 0xFD 0x0200 f0 [(0x0200, 0x30), (0x0201, 0x10)]) =
      [0x00, 0x00, 0x00, 0xFD, 0x0202, 0x20, 2] := by decide

/-- Vectors: BPL offset 0x80 (-128); BPL not taken. -/
theorem test_step_bpl :
    after (start 0x00 0x00 0x00 0xFD 0x0200 f0 [(0x0200, 0x10), (0x0201, 0x80)]) =
      [0x00, 0x00, 0x00, 0xFD, 0x0182, 0x20, 4] ∧
    after (start 0x00 0x00 0x00 0xFD 0x0200 (fl true false false false false false) [(0x0200, 0x10), (0x0201, 0x10)]) =
      [0x00, 0x00, 0x00, 0xFD, 0x0202, 0xA0, 2] := by decide

/-- Vectors: BVC taken forward; BVC not taken. -/
theorem test_step_bvc :
    after (start 0x00 0x00 0x00 0xFD 0x0200 f0 [(0x0200, 0x50), (0x0201, 0x10)]) =
      [0x00, 0x00, 0x00, 0xFD, 0x0212, 0x20, 3] ∧
    after (start 0x00 0x00 0x00 0xFD 0x0200 (fl false true false false false false) [(0x0200, 0x50), (0x0201, 0x10)]) =
      [0x00, 0x00, 0x00, 0xFD, 0x0202, 0x60, 2] := by decide

/-- Vectors: BVS taken forward; BVS not taken. -/
theorem test_step_bvs :
    after (start 0x00 0x00 0x00 0xFD 0x0200 (fl false true false false false false) [(0x0200, 0x70), (0x0201, 0x10)]) =
      [0x00, 0x00, 0x00, 0xFD, 0x0212, 0x60, 3] ∧
    after (start 0x00 0x00 0x00 0xFD 0x0200 f0 [(0x0200, 0x70), (0x0201, 0x10)]) =
      [0x00, 0x00, 0x00, 0xFD, 0x0202, 0x20, 2] := by decide

/-- Vectors: JMP (ind) page bug; JMP abs. -/
theorem test_step_jmp :
    after (start 0x00 0x00 0x00 0xFD 0x0200 f0 [(0x0200, 0x6C), (0x0201, 0xFF), (0x0202, 0x10), (0x1000, 0x12), (0x10FF, 0x34), (0x1100, 0x56)]) =
      [0x00, 0x00, 0x00, 0xFD, 0x1234, 0x20, 5] ∧
    after (start 0x00 0x00 0x00 0xFD 0x0200 f0 [(0x0200, 0x4C), (0x0201, 0x34), (0x0202, 0x12)]) =
      [0x00, 0x00, 0x00, 0xFD, 0x1234, 0x20, 3] := by decide

/-- Vectors: JSR; JSR with SP = 0x00. -/
theorem test_step_jsr :
    after (start 0x00 0x00 0x00 0xFD 0x0200 f0 [(0x0200, 0x20), (0x0201, 0x00), (0x0202, 0x30)]) =
      [0x00, 0x00, 0x00, 0xFB, 0x3000, 0x20, 6, 0x01FD, 0x02, 0x01FC, 0x02] ∧
    after (start 0x00 0x00 0x00 0x00 0x0200 f0 [(0x0200, 0x20), (0x0201, 0x00), (0x0202, 0x30)]) =
      [0x00, 0x00, 0x00, 0xFE, 0x3000, 0x20, 6, 0x0100, 0x02, 0x01FF, 0x02] := by decide

/-- Vectors: RTS; RTS pulls 0xFFFF. -/
theorem test_step_rts :
    after (start 0x00 0x00 0x00 0xFB 0x0200 f0 [(0x0200, 0x60), (0x01FC, 0x02), (0x01FD, 0x03)]) =
      [0x00, 0x00, 0x00, 0xFD, 0x0303, 0x20, 6] ∧
    after (start 0x00 0x00 0x00 0xFB 0x0200 f0 [(0x0200, 0x60), (0x01FC, 0xFF), (0x01FD, 0xFF)]) =
      [0x00, 0x00, 0x00, 0xFD, 0x0000, 0x20, 6] := by decide

/-- Vectors: BRK; BRK with I = 1 still taken. -/
theorem test_step_brk :
    after (start 0x00 0x00 0x00 0xFD 0x0200 (fl false false false false true true) [(0x0200, 0x00), (0x0201, 0xEA), (0xFFFE, 0x00), (0xFFFF, 0x80)]) =
      [0x00, 0x00, 0x00, 0xFA, 0x8000, 0x27, 7, 0x01FD, 0x02, 0x01FC, 0x02, 0x01FB, 0x33] ∧
    after (start 0x00 0x00 0x00 0xFD 0x0200 (fl false false true true false false) [(0x0200, 0x00), (0x0201, 0xEA), (0xFFFE, 0x00), (0xFFFF, 0x80)]) =
      [0x00, 0x00, 0x00, 0xFA, 0x8000, 0x2C, 7, 0x01FD, 0x02, 0x01FC, 0x02, 0x01FB, 0x3C] := by decide

/-- Vectors: RTI; RTI pulls I = 0. -/
theorem test_step_rti :
    after (start 0x00 0x00 0x00 0xFA 0x0200 f0 [(0x0200, 0x40), (0x01FB, 0xF3), (0x01FC, 0x34), (0x01FD, 0x12)]) =
      [0x00, 0x00, 0x00, 0xFD, 0x1234, 0xE3, 6] ∧
    after (start 0x00 0x00 0x00 0xFA 0x0200 (fl false false false true false false) [(0x0200, 0x40), (0x01FB, 0x00), (0x01FC, 0x00), (0x01FD, 0x03)]) =
      [0x00, 0x00, 0x00, 0xFD, 0x0300, 0x20, 6] := by decide

/-- Vectors: CLC. -/
theorem test_step_clc :
    after (start 0x12 0x00 0x00 0xFD 0x0200 (fl true false false false false true) [(0x0200, 0x18)]) =
      [0x12, 0x00, 0x00, 0xFD, 0x0201, 0xA0, 2] := by decide

/-- Vectors: SEC. -/
theorem test_step_sec :
    after (start 0x12 0x00 0x00 0xFD 0x0200 f0 [(0x0200, 0x38)]) =
      [0x12, 0x00, 0x00, 0xFD, 0x0201, 0x21, 2] := by decide

/-- Vectors: CLD. -/
theorem test_step_cld :
    after (start 0x12 0x00 0x00 0xFD 0x0200 (fl false false true false false false) [(0x0200, 0xD8)]) =
      [0x12, 0x00, 0x00, 0xFD, 0x0201, 0x20, 2] := by decide

/-- Vectors: SED. -/
theorem test_step_sed :
    after (start 0x12 0x00 0x00 0xFD 0x0200 f0 [(0x0200, 0xF8)]) =
      [0x12, 0x00, 0x00, 0xFD, 0x0201, 0x28, 2] := by decide

/-- Vectors: CLI. -/
theorem test_step_cli :
    after (start 0x12 0x00 0x00 0xFD 0x0200 (fl false false false true false false) [(0x0200, 0x58)]) =
      [0x12, 0x00, 0x00, 0xFD, 0x0201, 0x20, 2] := by decide

/-- Vectors: SEI. -/
theorem test_step_sei :
    after (start 0x12 0x00 0x00 0xFD 0x0200 f0 [(0x0200, 0x78)]) =
      [0x12, 0x00, 0x00, 0xFD, 0x0201, 0x24, 2] := by decide

/-- Vectors: CLV. -/
theorem test_step_clv :
    after (start 0x12 0x00 0x00 0xFD 0x0200 (fl false true false false false true) [(0x0200, 0xB8)]) =
      [0x12, 0x00, 0x00, 0xFD, 0x0201, 0x21, 2] := by decide

/-- Vectors: PC wraps at 0xFFFF. -/
theorem test_step_nop :
    after (start 0x00 0x00 0x00 0xFD 0xFFFF f0 [(0xFFFF, 0xEA)]) =
      [0x00, 0x00, 0x00, 0xFD, 0x0000, 0x20, 2] := by decide

/-- Vectors: 0x02 under Halt; 0x02 under Nop; 0x80 under Nop, 1 byte only. -/
theorem test_step_undefined :
    after (start 0x00 0x00 0x00 0xFD 0x0200 f0 [(0x0200, 0x02), (0x0201, 0xEA)]) =
      [0x00, 0x00, 0x00, 0xFD, 0x0200, 0x20, 0] ∧
    after ({ start 0x00 0x00 0x00 0xFD 0x0200 f0 [(0x0200, 0x02), (0x0201, 0xEA)] with cfg := { Config.reference with illegalPolicy := .nop } }) =
      [0x00, 0x00, 0x00, 0xFD, 0x0201, 0x20, 2] ∧
    after ({ start 0x00 0x00 0x00 0xFD 0x0200 f0 [(0x0200, 0x80), (0x0201, 0xA9)] with cfg := { Config.reference with illegalPolicy := .nop } }) =
      [0x00, 0x00, 0x00, 0xFD, 0x0201, 0x20, 2] := by decide

/-! ### Interrupts (spec/95_test_vectors.md section 11): the vectors at 00 90 and 00 80, NOP at 0x0200 -/

/-- The interrupt vectors' start, with the flags given. -/
def atBoundary (p : Flags) : State :=
  start 0x00 0x00 0x00 0xFD 0x0200 p
    [(0xFFFA, 0x00), (0xFFFB, 0x90), (0xFFFE, 0x00), (0xFFFF, 0x80), (0x0200, 0xEA)]

/-- The kind of the last step. -/
def kindOf (s : State) : Option StepKind :=
  match step s with
  | .next t => t.lastStep.map StepRecord.kind
  | _ => none

/-- The latches after one step, NMI's first, and the number of instructions. -/
def latches (s : State) : Option (Bool × Bool × Nat) :=
  match step s with
  | .next t => some (t.nmiPending, t.irqPending, t.instructions)
  | _ => none

/-- Vectors: NMI; NMI with I = 1. -/
theorem test_nmi_service :
    after (nmi (atBoundary (fl false false false false true true))) =
      [0, 0, 0, 0xFA, 0x9000, 0x27, 7, 0x01FD, 0x02, 0x01FC, 0x00, 0x01FB, 0x23] ∧
    after (nmi (atBoundary (fl false false false true false false))) =
      [0, 0, 0, 0xFA, 0x9000, 0x24, 7, 0x01FD, 0x02, 0x01FC, 0x00, 0x01FB, 0x24] ∧
    kindOf (nmi (atBoundary f0)) = some .nmi := by decide

/-- Vectors: IRQ with I = 0; IRQ with I = 1 held. -/
theorem test_irq_service_and_mask :
    after (irq (atBoundary (fl true false false false false false))) =
      [0, 0, 0, 0xFA, 0x8000, 0xA4, 7, 0x01FD, 0x02, 0x01FC, 0x00, 0x01FB, 0xA0] ∧
    after (irq (atBoundary (fl false false false true false false))) = [0, 0, 0, 0xFD, 0x0201, 0x24, 2] ∧
    latches (irq (atBoundary (fl false false false true false false))) = some (false, true, 1) := by decide

/-- Vectors: IRQ and NMI together; a halted step leaves NMI pending. -/
theorem test_interrupt_priority :
    after (nmi (irq (atBoundary f0))) =
      [0, 0, 0, 0xFA, 0x9000, 0x24, 7, 0x01FD, 0x02, 0x01FC, 0x00, 0x01FB, 0x20] ∧
    latches (nmi (irq (atBoundary f0))) = some (false, true, 0) ∧
    latches { nmi (atBoundary f0) with halted := true, haltInfo := some ⟨0x0200, 0x02⟩ } = some (true, false, 0) ∧
    kindOf { nmi (atBoundary f0) with halted := true } = some .halted := by decide

/-! ### Reset (spec/95_test_vectors.md section 12) -/

/-- The reset vector of the section: every register and flag set, SP = 0x10, four wraps counted, vector 00 02. -/
def beforeReset : State :=
  { start 0x01 0x02 0x03 0x10 0x1234 (fl true true true false true true) [(0xFFFC, 0x00), (0xFFFD, 0x02)] with
    stackWrapCount := 4, irqPending := true, cycles := 99, instructions := 9 }

/-- What `reset()` leaves, with the wrap counter and the instruction counter. -/
def afterReset (s : State) : List Nat :=
  match resetCpu s with
  | .ok t => seen t ++ [t.stackWrapCount, t.instructions, t.irqPending.toNat]
  | .error _ => []

theorem test_reset_writes_its_list :
    afterReset beforeReset = [0x01, 0x02, 0x03, 0xFD, 0x0200, 0xEF, 0, 0, 0, 0] := by decide

/-- R42: the reset state is what `reset()` leaves of a machine with nothing placed. -/
theorem test_reset_state_is_a_reset : resetCpu State.reset = .ok State.reset := rfl

/-- Nothing listed reads as zero, so the first step from reset is a BRK (log entry 8), on the vector 0x0000. -/
theorem test_reset_runs_brk :
    after State.reset = [0, 0, 0, 0xFA, 0x0000, 0x24, 7, 0x01FD, 0x00, 0x01FC, 0x02, 0x01FB, 0x34] := by
  decide

/-- The state with an instruction placed runs it next. -/
theorem test_withFetchWord_runs_the_word :
    after (State.reset.withFetchWord 16 0x80A9) = [0x80, 0, 0, 0xFD, 0x0002, 0xA4, 2] := by decide

/-! ### The Debugger (spec/95_test_vectors.md sections 1 and 12) -/

/-- A debugged step. -/
def debugged (s : State) : State :=
  match debugStep s with
  | .next t => t
  | _ => s

/-- E6: the watchpoint for writes at 0x0010, which holds 0x05. -/
def watched (cells : List (Word × Byte)) : State :=
  setWatchpoint 0x0010 .write none none
    { start 0x07 0x00 0x00 0xFD 0x0200 f0 ((0x0010, 0x05) :: cells) with dbg := startDebugging Debugger.initial }

/-- The watchpoints' hit counts and last values. -/
def watchState (s : State) : List (Nat × Option Byte) := s.dbg.watchpoints.map fun w => (w.hitCount, w.lastValue)

theorem test_watchpoint_ignores_reads_and_sees_changes :
    watchState (debugged (watched [(0x0200, 0xA5), (0x0201, 0x10)])) = [(0, some 0x05)] ∧
    watchState (debugged (watched [(0x0200, 0x85), (0x0201, 0x10)])) = [(1, some 0x07)] := by decide

/-- E5: DEX at 0x0202, reached from the LDX before it. -/
def trapped : State :=
  { start 0x00 0x00 0x00 0xFD 0x0200 f0 [(0x0200, 0xA2), (0x0201, 0x03), (0x0202, 0xCA)] with
    dbg := setTemporaryBreakpoint 0x0202 none (startDebugging Debugger.initial) }

theorem test_temporary_breakpoint :
    (debugged trapped).dbg.breakpoints = [] ∧
    (debugged trapped).dbg.events =
      [.breakpointHit 0x0202 "Temporary breakpoint at $0202" 1 2 1, .stepped 1 .instruction 0x0200 "LDX" 2] := by
  decide

/-- The profile vector's first entry: LDX #$03 at 0x0200, 2 cycles, timestamp 0. -/
theorem test_trace_entry :
    (debugged { trapped with dbg := startTracing 1 trapped.dbg }).dbg.trace.map
      (fun e => (e.address, e.text, e.cycles, e.timestamp)) = [(0x0200, "LDX #$03", 2, 0)] := by decide

/-- R111: a branch's target in the text, from the profile vector. -/
theorem test_disassembly :
    disassembly 0x0203 0xD0 [0xFD] = "BNE $0202" ∧ disassembly 0x0200 0xB1 [0x20] = "LDA ($20),Y" ∧
    disassembly 0x0200 0x02 [] = "???" := by decide

/-- R480's example: 48 49 00 7F 41 at 0x0200, and a byte that cannot be read. -/
theorem test_dump_memory :
    (dumpMemory 0x0200 5 (start 0 0 0 0xFD 0 f0 [(0x0200, 0x48), (0x0201, 0x49), (0x0203, 0x7F), (0x0204, 0x41)])).1 =
      "0200: 48 49 00 7F 41                                  |HI..A           |" ∧
    (dumpMemory 0x0300 0 State.reset).1 = "" := by decide

/-! ### Witnesses: for each statement with hypotheses, inputs that meet all of them -/

/-- LDA #$41 at 0x0200, with nothing pending. -/
def loading : State := start 0x00 0x00 0x00 0xFD 0x0200 f0 [(0x0200, 0xA9), (0x0201, 0x41)]

/-- A state whose MemoryInterface has the given windows. -/
def windowed (windows : List Window) (s : State) : State := { s with cfg := { s.cfg with windows := windows } }

/-- A failing store of ASL $10 leaves what the pseudocode of R306 had written (R62): the byte read is 0x80, so C is 1,
and N and Z are as they were though the result is 0x00. -/
theorem test_failing_store_leaves_n_and_z :
    ∃ left, step (windowed [⟨0x0010, 0x0010, .cell, .fails⟩]
        (start 0 0 0 0xFD 0x0200 (fl true false false false false false) [(0x0010, 0x80), (0x0200, 0x06), (0x0201, 0x10)])) =
      .fault (.busFault .write 0x0010 left) ∧ left.p.c = true ∧ left.p.n = true ∧ left.p.z = false ∧
        left.peek 0x0010 = 0x80 :=
  ⟨_, rfl, rfl, rfl, rfl, rfl⟩

theorem stack_is_ram : StackIsRam Config.reference := fun _ => ⟨rfl, rfl⟩

theorem whole_memory_is_ram : IsReferenceRam Config.reference := fun _ => ⟨rfl, rfl⟩

theorem reference_never_fails : NeverFails Config.reference where
  read _ h := ReadAnswer.noConfusion (h : ReadAnswer.cell = .fails)
  write _ h := WriteAnswer.noConfusion (h : WriteAnswer.cell = .fails)
  readAnswered _ h := ReadAnswer.noConfusion (h : ReadAnswer.cell = .external)
  writeAccepted _ h := WriteAnswer.noConfusion (h : WriteAnswer.cell = .external)

theorem witness_DecodingAnEncodingGivesTheInstruction :
    WellFormed (.undefined 0x02) ∧ WellFormed (.undefined 0xFF) ∧ WellFormed (.brk 0xFF) ∧
    WellFormed (.jmpInd 0xFF 0xFF) ∧ WellFormed .nop := by decide

theorem witness_EncodingADecodingGivesTheBytes :
    decode [0x00, 0xEA] = .ok (.brk 0xEA, []) ∧ decode [0xFF, 0xEA] = .ok (.undefined 0xFF, [0xEA]) ∧
    decode [0x6C, 0xFF, 0x10] = .ok (.jmpInd 0xFF 0x10, []) := ⟨rfl, rfl, rfl⟩

theorem witness_StepRunsTheInstructionAtPc :
    (loading.faulted = none ∧ loading.halted = false ∧ loading.nmiPending = false ∧ loading.irqPending = false ∧
      readAnswerOf loading.cfg loading.pc = .cell ∧ readAnswerOf loading.cfg (loading.pc + 1) = .cell ∧
      readAnswerOf loading.cfg (loading.pc + 2) = .cell ∧
      decode [loading.peek loading.pc, loading.peek (loading.pc + 1), loading.peek (loading.pc + 2)] =
        .ok (.ldaImm 0x41, [0x00])) ∧
    ((irq State.reset).irqPending = true ∧ (irq State.reset).p.i = true) :=
  ⟨⟨rfl, rfl, rfl, rfl, rfl, rfl, rfl, rfl⟩, rfl, rfl⟩

/-- From RAM, and with a device answering for the operand byte. -/
theorem witness_FetchChangesNothingButDeviceReads :
    fetchInstr loading = .ok (.ldaImm 0x41, loading) ∧
    fetchInstr (windowed [⟨0x0201, 0x0201, .device, .ignored⟩] loading) =
      .ok (.ldaImm (Config.deviceByte 0 [] 0x0201),
        { windowed [⟨0x0201, 0x0201, .device, .ignored⟩] loading with calls := [.read 0x0201] }) := ⟨rfl, rfl⟩

theorem witness_HaltedStepWritesOnlyItsRecord :
    ({ nmi loading with halted := true } : State).faulted = none ∧
    ({ nmi loading with halted := true } : State).halted = true := ⟨rfl, rfl⟩

/-- With SP at 0x02 and 0x03, on the two sides of the wrap. -/
theorem witness_NmiServiceTakesTheEntry :
    ∀ sp ∈ [(0x02 : Byte), 0x03], ∃ s : State, s.sp = sp ∧ s.faulted = none ∧ s.halted = false ∧
      s.nmiPending = true ∧ StackIsRam s.cfg ∧ VectorReadable s.cfg 0xFFFA :=
  fun sp _ => ⟨{ nmi (atBoundary f0) with sp := sp }, rfl, rfl, rfl, rfl, stack_is_ram, rfl, rfl⟩

theorem witness_IrqServiceTakesTheEntry :
    ∀ sp ∈ [(0x02 : Byte), 0x03], ∃ s : State, s.sp = sp ∧ s.faulted = none ∧ s.halted = false ∧
      s.nmiPending = false ∧ s.irqPending = true ∧ s.p.i = false ∧ StackIsRam s.cfg ∧ VectorReadable s.cfg 0xFFFE :=
  fun sp _ => ⟨{ irq (atBoundary f0) with sp := sp }, rfl, rfl, rfl, rfl, rfl, rfl, stack_is_ram, rfl, rfl⟩

theorem witness_MaskedIrqIsHeld :
    ∃ s t : State, s.faulted = none ∧ s.halted = false ∧ s.nmiPending = false ∧ s.irqPending = true ∧
      s.p.i = true ∧ step s = .next t :=
  ⟨irq (atBoundary (fl false false false true false false)), _, rfl, rfl, rfl, rfl, rfl, rfl⟩

/-- From RAM, and from a device. -/
theorem witness_ResetWritesWhatTheRuleLists :
    (∃ u v lo hi, busRead 0xFFFC beforeReset = (some lo, u) ∧ busRead 0xFFFD u = (some hi, v)) ∧
    (∃ u v lo hi, busRead 0xFFFC (windowed [⟨0xFFFC, 0xFFFD, .device, .ignored⟩] beforeReset) = (some lo, u) ∧
      busRead 0xFFFD u = (some hi, v)) := ⟨⟨_, _, _, _, rfl, rfl⟩, _, _, _, _, rfl, rfl⟩

/-- From RAM; and the second reset's premises where a device answers for the vector. -/
theorem witness_ResetTwiceIsResetOnce :
    (VectorReadable beforeReset.cfg 0xFFFC ∧
      ∃ t u, resetCpu beforeReset = .ok t ∧ resetCpu t = .ok u ∧ u.pc = t.pc) ∧
    readAnswerOf (windowed [⟨0xFFFC, 0xFFFD, .device, .ignored⟩] beforeReset).cfg 0xFFFC ≠ .external ∧
    readAnswerOf (windowed [⟨0xFFFC, 0xFFFD, .device, .ignored⟩] beforeReset).cfg 0xFFFD ≠ .external ∧
    ∃ t, resetCpu (windowed [⟨0xFFFC, 0xFFFD, .device, .ignored⟩] beforeReset) = .ok t :=
  ⟨⟨⟨rfl, rfl⟩, _, _, rfl, rfl, rfl⟩, by decide, by decide, _, rfl⟩

/-- Both clauses: a vector whose low byte fails, and one whose high byte does. -/
theorem witness_FailingVectorReadEndsReset :
    (∃ u, busRead 0xFFFC (windowed [⟨0xFFFC, 0xFFFC, .fails, .cell⟩] loading) = (none, u)) ∧
    (∃ lo u v, busRead 0xFFFC (windowed [⟨0xFFFD, 0xFFFD, .fails, .cell⟩] loading) = (some lo, u) ∧
      busRead 0xFFFD u = (none, v)) := ⟨⟨_, rfl⟩, _, _, _, rfl, rfl⟩

/-- Each clause at the last operand value, where the pointer wraps. -/
theorem witness_PointerAddresses :
    (∃ lo hi u v, memRead .read 0x10FF (Work.start loading []) = .ok (lo, u) ∧ memRead .read 0x1000 u = .ok (hi, v) ∧
      (0x10FF : Word).toNat = (0x10 : Byte).toNat * 256 + (0xFF : Byte).toNat ∧
      (0x1000 : Word).toNat = (0x10 : Byte).toNat * 256 + ((0xFF : Byte).toNat + 1) % 256) ∧
    (∃ lo hi u v, memRead .read 0x00FF (Work.start loading []) = .ok (lo, u) ∧ memRead .read 0x0000 u = .ok (hi, v) ∧
      (0x00FF : Word).toNat = ((0xFF : Byte).toNat + loading.x.toNat) % 256 ∧
      (0x0000 : Word).toNat = ((0xFF : Byte).toNat + loading.x.toNat + 1) % 256 ∧
      (0x00FF : Word).toNat = (0xFF : Byte).toNat ∧ (0x0000 : Word).toNat = ((0xFF : Byte).toNat + 1) % 256) :=
  ⟨⟨_, _, _, _, rfl, rfl, rfl, rfl⟩, _, _, _, _, rfl, rfl, rfl, rfl, rfl, rfl⟩

/-- The five answers, at the first and the last address of a window. -/
theorem witness_BusReadsByTheMap :
    readAnswerOf Config.reference 0xFFFF = .cell ∧
    readAnswerOf (windowed [⟨0x1000, 0x10FF, .fixed 0xFF, .ignored⟩] loading).cfg 0x10FF = .fixed 0xFF ∧
    readAnswerOf (windowed [⟨0x1000, 0x10FF, .device, .ignored⟩] loading).cfg 0x1000 = .device ∧
    readAnswerOf (windowed [⟨0x0000, 0xFFFF, .external, .external⟩] loading).cfg 0xFFFF = .external ∧
    readAnswerOf (windowed [⟨0x1000, 0x10FF, .fails, .fails⟩] loading).cfg 0x10FF = .fails := by decide

theorem witness_StoresAreReadBack :
    (0xFFFF : Word) ≠ 0x0000 ∧ Memory.wf loading.mem ∧ loading.mem ≠ [] := by decide

/-- Each of the three registers, the form LDX zp,Y at its wrap among them. -/
theorem witness_LoadsPutTheOperandInTheRegister :
    (shapeOf (.ldaImm 0x41) = .read .lda (.imm 0x41) ∧ ∃ w, operandOf (.ldaImm 0x41) (.imm 0x41) loading =
      .ok (0x41, false, w)) ∧
    (shapeOf (.ldxZpy 0xFF) = .read .ldx (.ea (.zpy 0xFF)) ∧
      ∃ w, operandOf (.ldxZpy 0xFF) (.ea (.zpy 0xFF)) loading = .ok (0x00, false, w)) ∧
    (shapeOf (.ldyAbx 0x01 0x02) = .read .ldy (.ea (.abx 0x01 0x02)) ∧
      ∃ w, operandOf (.ldyAbx 0x01 0x02) (.ea (.abx 0x01 0x02)) loading = .ok (0x41, false, w)) :=
  ⟨⟨rfl, _, rfl⟩, ⟨rfl, _, rfl⟩, rfl, _, rfl⟩

/-- Each of the three registers; to RAM, and to a read-only region. -/
theorem witness_StoresWriteOneByte :
    (shapeOf (.staZpx 0xFF) = .write .a (.zpx 0xFF) ∧
      ∃ w u, resolve (.zpx 0xFF) (begun (.staZpx 0xFF) loading) = .ok (0x00FF, false, w) ∧
        memWrite .write 0x00FF loading.a (advanced (.staZpx 0xFF) loading w) = .ok u) ∧
    (shapeOf (.stxZpy 0x00) = .write .x (.zpy 0x00) ∧
      ∃ w u, resolve (.zpy 0x00) (begun (.stxZpy 0x00) loading) = .ok (0x0000, false, w) ∧
        memWrite .write 0x0000 loading.x (advanced (.stxZpy 0x00) loading w) = .ok u) ∧
    (shapeOf (.styAbs 0xFF 0xFF) = .write .y (.abs 0xFF 0xFF) ∧
      ∃ w u, resolve (.abs 0xFF 0xFF) (begun (.styAbs 0xFF 0xFF)
          (windowed [⟨0xE000, 0xFFFF, .cell, .ignored⟩] loading)) = .ok (0xFFFF, false, w) ∧
        memWrite .write 0xFFFF loading.y (advanced (.styAbs 0xFF 0xFF)
          (windowed [⟨0xE000, 0xFFFF, .cell, .ignored⟩] loading) w) = .ok u) :=
  ⟨⟨rfl, _, _, rfl, rfl⟩, ⟨rfl, _, _, rfl, rfl⟩, rfl, _, _, rfl, rfl⟩

/-- With SP at 0x00, where the push wraps, and above it; the accumulator and the status byte. -/
theorem witness_PushInstructionsStoreOneByte :
    ∀ sp ∈ [(0x00 : Byte), 0xFF], ∀ v ∈ [loading.a, packP loading.p true],
      ∃ u, busWrite (stackAddr sp) v { loading with sp := sp } = (true, u) :=
  fun sp _ v _ => ⟨({ loading with sp := sp } : State).poke (stackAddr sp) v, rfl⟩

/-- With SP at 0xFF, where the pull wraps, and below it. -/
theorem witness_PullInstructionsLoadOneByte :
    (∃ v u, busRead (stackAddr (0xFF + 1)) { loading with sp := 0xFF } = (some v, u)) ∧
    (∃ v u, busRead (stackAddr (0xFE + 1)) { loading with sp := 0xFE } = (some v, u)) :=
  ⟨⟨_, _, rfl⟩, _, _, rfl⟩

theorem witness_BinaryAdditionSetsCarryAndOverflow :
    shapeOf (.adcZp 0x10) = .read .adc (.ea (.zp 0x10)) ∧ loading.p.d = false ∧
    ∃ w, operandOf (.adcZp 0x10) (.ea (.zp 0x10)) loading = .ok (0x00, false, w) := ⟨rfl, rfl, _, rfl⟩

theorem witness_DecimalAdditionAddsDigits :
    shapeOf (.adcImm 0x99) = .read .adc (.imm 0x99) ∧ isBcd 0x99 = true ∧ isBcd 0x00 = true ∧
    (start 0x99 0 0 0xFD 0 (fl false false true false false true) []).p.d = true ∧
    ∃ w, operandOf (.adcImm 0x99) (.imm 0x99) (start 0x99 0 0 0xFD 0 (fl false false true false false true) []) =
      .ok (0x99, false, w) := ⟨rfl, rfl, rfl, rfl, _, rfl⟩

/-- In both modes, on decimal digits. -/
theorem witness_SubtractionBorrowsAndOverflows :
    ∀ d : Bool, ∃ s : State, s.p.d = d ∧ isBcd s.a = true ∧ isBcd 0x99 = true ∧
      shapeOf (.sbcImm 0x99) = .read .sbc (.imm 0x99) ∧
      ∃ w, operandOf (.sbcImm 0x99) (.imm 0x99) s = .ok (0x99, false, w) :=
  fun d => ⟨start 0x00 0 0 0xFD 0 (fl false false d false false false) [], rfl, by cases d <;> decide, rfl, rfl, _, rfl⟩

theorem witness_ComparesWriteThreeFlags :
    (shapeOf (.cmpImm 0xFF) = .read .cmp (.imm 0xFF) ∧
      ∃ w, operandOf (.cmpImm 0xFF) (.imm 0xFF) loading = .ok (0xFF, false, w)) ∧
    (shapeOf (.cpxImm 0x00) = .read .cpx (.imm 0x00) ∧
      ∃ w, operandOf (.cpxImm 0x00) (.imm 0x00) loading = .ok (0x00, false, w)) ∧
    (shapeOf (.cpyAbs 0x00 0x02) = .read .cpy (.ea (.abs 0x00 0x02)) ∧
      ∃ w, operandOf (.cpyAbs 0x00 0x02) (.ea (.abs 0x00 0x02)) loading = .ok (0xA9, false, w)) :=
  ⟨⟨rfl, _, rfl⟩, ⟨rfl, _, rfl⟩, rfl, _, rfl⟩

theorem witness_LogicalOperationsAreBitwise :
    (shapeOf (.andImm 0xFF) = .read .and (.imm 0xFF) ∧
      ∃ w, operandOf (.andImm 0xFF) (.imm 0xFF) loading = .ok (0xFF, false, w)) ∧
    (shapeOf (.oraIzy 0xFF) = .read .ora (.ea (.izy 0xFF)) ∧
      ∃ w, operandOf (.oraIzy 0xFF) (.ea (.izy 0xFF)) loading = .ok (0x00, false, w)) ∧
    (shapeOf (.eorIzx 0xFF) = .read .eor (.ea (.izx 0xFF)) ∧
      ∃ w, operandOf (.eorIzx 0xFF) (.ea (.izx 0xFF)) loading = .ok (0x00, false, w)) :=
  ⟨⟨rfl, _, rfl⟩, ⟨rfl, _, rfl⟩, rfl, _, rfl⟩

theorem witness_BitTestReadsTwoBits :
    shapeOf (.bitAbs 0x01 0x02) = .read .bit (.ea (.abs 0x01 0x02)) ∧
    ∃ w, operandOf (.bitAbs 0x01 0x02) (.ea (.abs 0x01 0x02)) loading = .ok (0x41, false, w) := ⟨rfl, _, rfl⟩

theorem witness_MemoryStepsWrap :
    (shapeOf (.incAbx 0xFF 0xFF) = .modify .inc (.abx 0xFF 0xFF) ∧ shapeOf (.decZp 0x00) = .modify .dec (.zp 0x00)) ∧
    (∃ w u x, resolve (.abx 0xFF 0xFF) (begun (.incAbx 0xFF 0xFF) loading) = .ok (0xFFFF, false, w) ∧
      memRead .read 0xFFFF (advanced (.incAbx 0xFF 0xFF) loading w) = .ok (0x00, u) ∧
      memWrite .write 0xFFFF 0x01 u = .ok x) ∧
    (∃ w u x, resolve (.zp 0x00) (begun (.decZp 0x00) loading) = .ok (0x0000, false, w) ∧
      memRead .read 0x0000 (advanced (.decZp 0x00) loading w) = .ok (0x00, u) ∧
      memWrite .write 0x0000 0xFF u = .ok x) :=
  ⟨⟨rfl, rfl⟩, ⟨_, _, _, rfl, rfl, rfl⟩, _, _, _, rfl, rfl, rfl⟩

/-- Each of the four shifts, on the zero page. -/
theorem witness_MemoryShiftsReplaceTheByte :
    ∀ i ∈ [Instr.aslZp 0xFF, .lsrZp 0xFF, .rolZp 0xFF, .rorZp 0xFF],
      ∃ op w u x, shapeOf i = .modify op (.zp 0xFF) ∧ op ≠ .inc ∧ op ≠ .dec ∧
        resolve (.zp 0xFF) (begun i loading) = .ok (0x00FF, false, w) ∧
        memRead .read 0x00FF (advanced i loading w) = .ok (0x00, u) ∧ memWrite .write 0x00FF 0x00 u = .ok x := by
  intro i hi
  simp only [List.mem_cons, List.not_mem_nil, or_false] at hi
  rcases hi with rfl | rfl | rfl | rfl <;> exact ⟨_, _, _, _, rfl, by decide, by decide, rfl, rfl, rfl⟩

theorem witness_AccumulatorShiftsReplaceA :
    shapeOf .aslAcc = .accumulator .asl ∧ shapeOf .lsrAcc = .accumulator .lsr ∧
    shapeOf .rolAcc = .accumulator .rol ∧ shapeOf .rorAcc = .accumulator .ror := by decide

/-- Both clauses: BNE is taken and BEQ is not, at the two ends of the offset. -/
theorem witness_BranchesTestOneFlag :
    shapeOf (.bne 0x80) = .branch .bne 0x80 ∧ loading.p.z = false ∧ shapeOf (.beq 0x7F) = .branch .beq 0x7F := by
  decide

theorem witness_JumpsSetThePc :
    (shapeOf (.jmpAbs 0xFF 0xFF) = .jmp (.abs 0xFF 0xFF) ∧
      ∃ w, resolve (.abs 0xFF 0xFF) (begun (.jmpAbs 0xFF 0xFF) loading) = .ok (0xFFFF, false, w)) ∧
    (shapeOf (.jmpInd 0xFF 0x01) = .jmp (.ind 0xFF 0x01) ∧
      ∃ ea w, resolve (.ind 0xFF 0x01) (begun (.jmpInd 0xFF 0x01) loading) = .ok (ea, false, w)) :=
  ⟨⟨rfl, _, rfl⟩, rfl, _, _, rfl⟩

theorem witness_JsrPushesItsLastAddress : StackIsRam loading.cfg := stack_is_ram

theorem witness_RtsContinuesAfterThePulledAddress : StackIsRam loading.cfg := stack_is_ram

theorem witness_BrkTakesTheEntry : StackIsRam loading.cfg ∧ VectorReadable loading.cfg 0xFFFE :=
  ⟨stack_is_ram, rfl, rfl⟩

theorem witness_RtiRestoresStatusAndPc : StackIsRam loading.cfg := stack_is_ram

/-- The first and the last undefined opcode, and both policies. -/
theorem witness_UndefinedOpcodesFollowThePolicy :
    (0x02 : Byte) ∈ undefinedOpcodes ∧ (0xFF : Byte) ∈ undefinedOpcodes ∧ loading.cfg.illegalPolicy = .halt ∧
    ({ loading.cfg with illegalPolicy := .nop } : Config).illegalPolicy = .nop := by decide

/-- A debugged state with a breakpoint, a watchpoint and a trace meets the invariant. -/
def observed : State :=
  debugged (setWatchpoint 0x0200 .both none none
    { trapped with dbg := startTracing 4 (setBreakpoint 0x0201 none none trapped.dbg) })

theorem observed_inv : Inv observed where
  memory := by decide
  haltReported := by decide
  haltNames := fun _ h => nomatch (h : none = some _)
  logBounded := by
    have h : ∀ r ∈ observed.lastStep, r.busLog.length ≤ 7 := by decide
    exact fun r hr => h r hr
  traceBounded := by decide
  breakpointsAscend := by unfold Ascending; decide
  watchpointsAscend := by unfold Ascending; decide
  reportedOnce := by decide

theorem witness_StepKeepsTheInvariant : Inv observed ∧ ∃ t, step observed = .next t := ⟨observed_inv, _, rfl⟩

theorem witness_EveryCallKeepsTheInvariant :
    Inv observed ∧ (∃ n t, perform .debugStep observed = .next (n, t)) ∧
    (∃ n t, perform .reset observed = .next (n, t)) ∧ (∃ n t, perform .stopTracing observed = .next (n, t)) :=
  ⟨observed_inv, ⟨_, _, rfl⟩, ⟨_, _, rfl⟩, _, _, rfl⟩

theorem witness_NoFailureMeansEveryStepCompletes : loading.faulted = none ∧ NeverFails loading.cfg :=
  ⟨rfl, reference_never_fails⟩

/-- A step that completes, and one whose operand read fails. -/
theorem witness_StepsAccountForTheirCycles :
    (∃ t, step loading = .next t) ∧
    (∃ left, step (windowed [⟨0x0201, 0x0201, .fails, .fails⟩] loading) = .fault (.busFault .fetch 0x0201 left)) :=
  ⟨⟨_, rfl⟩, _, rfl⟩

/-- A PHA, which writes. -/
def pushing : State := start 0x5A 0x00 0x00 0xFD 0x0200 f0 [(0x0200, 0x48)]

theorem witness_MemoryChangesByTheLogOnly :
    IsReferenceRam pushing.cfg ∧ ∃ t r, step pushing = .next t ∧ t.lastStep = some r ∧ r.busLog.length = 2 :=
  ⟨whole_memory_is_ram, _, _, rfl, rfl, rfl⟩

/-- With the stored B set. -/
theorem witness_NoStepWritesTheStoredB : ∃ t, step (setFlag .b true pushing) = .next t ∧ t.p.b = true :=
  ⟨_, rfl, rfl⟩

/-- By an undefined opcode, and halted before. -/
theorem witness_OnlyAnUndefinedOpcodeHalts :
    (∃ t, step (start 0 0 0 0xFD 0x0200 f0 [(0x0200, 0x02)]) = .next t ∧ t.halted = true) ∧
    (∃ t, step { loading with halted := true } = .next t ∧ t.halted = true) := ⟨⟨_, rfl, rfl⟩, _, rfl, rfl⟩

/-- One step's budget, no budget, and a halted engine. -/
theorem witness_ExecuteStopsWithinItsBudget :
    (∃ t, execute 2 loading = .next (2, t)) ∧ execute 0 loading = .next (0, loading) ∧
    execute 5 { loading with halted := true } = .next (0, { loading with halted := true }) :=
  ⟨⟨_, rfl⟩, rfl, rfl⟩

theorem witness_EntryThenRtiResumesTheProgram :
    ∃ s t : State, s.faulted = none ∧ s.halted = false ∧ s.nmiPending = true ∧ StackIsRam s.cfg ∧
      VectorReadable s.cfg 0xFFFA ∧ step s = .next t ∧ readAnswerOf t.cfg t.pc = .cell ∧ t.peek t.pc = 0x40 :=
  ⟨nmi ((atBoundary f0).poke 0x9000 0x40), _, rfl, rfl, rfl, stack_is_ram, ⟨rfl, rfl⟩, rfl, rfl, rfl⟩

theorem witness_RtsReturnsAfterTheJsr :
    StackIsRam loading.cfg ∧ ∃ t, exec (.jsr 0x00 0x03) loading = .next t := ⟨stack_is_ram, _, rfl⟩

theorem witness_ExecutedInstructionsLeaveTheirRecord :
    WellFormed (.ldaImm 0x41) ∧ (table (Instr.opcode (.ldaImm 0x41))).isDefined = true ∧
    ∃ t, exec (.ldaImm 0x41) loading = .next t := ⟨rfl, rfl, _, rfl⟩

/-- A fetch from an address that cannot be read, and a push to one that cannot be written though it can be read. -/
theorem witness_BusFailureEndsTheStep :
    (∃ left, step (windowed [⟨0x0200, 0x0200, .fails, .cell⟩] loading) = .fault (.busFault .fetch 0x0200 left)) ∧
    (∃ left, step (windowed [⟨0x01FD, 0x01FD, .cell, .fails⟩] pushing) =
      .fault (.busFault .stackWrite 0x01FD left)) := ⟨⟨_, rfl⟩, _, rfl⟩

theorem witness_PushedWordIsPulledBack :
    StackIsRam loading.cfg ∧ (0x00FF : Word).toNat < 0x0100 ∧ 0x0200 ≤ (0x0200 : Word).toNat :=
  ⟨stack_is_ram, by decide, by decide⟩

/-- Active and not. -/
theorem witness_ObservationLeavesTheCpuAlone :
    (∃ u, debugStep trapped = .next u) ∧ trapped.dbg.active = true ∧
    (∃ u, debugStep loading = .next u) ∧ loading.dbg.active = false := ⟨⟨_, rfl⟩, rfl, ⟨_, rfl⟩, rfl⟩

/-- A record of an executed instruction, with the bus log given. -/
def recordOf (log : List BusEntry) : StepRecord :=
  { kind := .instruction, addr := 0x0200, opcode := some 0x85, operands := [0x10], mnemonic := "STA"
    mode := some .zp, cycles := 3, pre := loading.snapshot, busLog := log, wrapped := false }

theorem witness_TemporaryBreakpointIsHitOnce : (recordOf []).kind ≠ .halted := by decide

/-- A watchpoint for writes at 0x0010 that has seen 0x05; after the fetches of an instruction, a read, a write of 0x05
and a write of 0x07; and an instruction that fetches its own opcode from the watched address. -/
theorem witness_WriteWatchpointSeesChangesOnly :
    ∃ w : Watchpoint, w.enabled = true ∧ w.accessType = .write ∧ w.condition = none ∧ w.address = 0x0010 ∧
      w.lastValue = some 0x05 ∧ w.lastValue ≠ some 0x07 ∧
      ∀ e ∈ [BusEntry.mk .read 0x0010 0x05, ⟨.write, 0x0010, 0x05⟩, ⟨.stackWrite, 0x0010, 0x07⟩],
        ∀ before ∈ [fetchLog 0x0200 [0x85, 0x10], fetchLog 0x0010 [0x85, 0x10]],
          (recordOf (before ++ [e])).busLog = before ++ e :: [] ∧ e.addr = w.address ∧
          ∀ x ∈ before ++ [], x.addr = w.address → x.kind = .fetch :=
  ⟨⟨0x0010, .write, true, none, "w", 0, some 0x05⟩, rfl, rfl, rfl, rfl, rfl, by decide, by decide⟩

/-- A condition on LastValue, which a breakpoint has not, and a watchpoint whose registration read failed has not; not
yet reported, and reported. -/
theorem witness_FailingConditionIsReportedOnce :
    ∃ (d : Debugger) (b : Breakpoint) (w : Watchpoint) (q : Pred),
      (findKey Breakpoint.address loading.pc d.breakpoints = some b ∧ b.enabled = true ∧ b.condition = some q ∧
        evalPred q ⟨loading.regs, loading.p, b.hitCount, none⟩ = none ∧ (recordOf []).kind ≠ .halted ∧
        (Target.breakpoint, loading.pc) ∉ d.reported ∧
        (Target.breakpoint, loading.pc) ∈ (reportOnce .breakpoint loading.pc d).reported) ∧
      (w.enabled = true ∧ w.condition = some q ∧ watchMatch w ⟨.read, 0x0010, 0x05⟩ ≠ none ∧
        evalPred q ⟨loading.regs, loading.p, w.hitCount, w.lastValue⟩ = none ∧
        (Target.watchpoint, w.address) ∉ d.reported ∧
        (Target.watchpoint, w.address) ∈ (reportOnce .watchpoint w.address d).reported) :=
  ⟨setConditionalBreakpoint 0x0200 (.cmp .eq .lastValue (.const 0)) none Debugger.initial, _,
    ⟨0x0010, .both, true, some (.cmp .eq .lastValue (.const 0)), "w", 0, none⟩, _,
    ⟨rfl, rfl, rfl, rfl, by decide, by decide, by decide⟩, rfl, rfl, by decide, rfl, by decide, by decide⟩

/-- With room, full, inactive, with tracing off, and on a step that is no instruction. -/
theorem witness_TraceStopsWhenFull :
    (startTracing 1 (startDebugging Debugger.initial)).active = true ∧
    (startTracing 1 (startDebugging Debugger.initial)).tracing = true ∧
    (startTracing 1 (startDebugging Debugger.initial)).trace.length < 1 ∧
    (recordOf []).kind = .instruction ∧ (recordOf []).opcode = some 0x85 ∧
    (startTracing 0 (startDebugging Debugger.initial)).trace.length =
      (startTracing 0 (startDebugging Debugger.initial)).traceCap ∧
    (startTracing 1 Debugger.initial).active = false ∧ (startDebugging Debugger.initial).tracing = false ∧
    ({ recordOf [] with kind := .nmi } : StepRecord).kind ≠ .instruction := by decide

/-- The last clause's premise, and a trace whose profile has a tie: two entries at 0x0202 and two at 0x0200. -/
theorem witness_ProfileTotalsAreTheTraces :
    ([] : List TraceEntry) = [] ∧
    (profileOf ((([0x0202, 0x0200, 0x0200, 0x0202, 0x0100] : List Word).map fun a =>
      traceEntry 2 { recordOf [] with addr := a } 0xEA))).hotspots = [(0x0200, 2), (0x0202, 2), (0x0100, 1)] := by
  decide

end Sys2Proof.Tests
end

section
/-! The state family (spec/10_state.md): what every step keeps. `step_kinds` reduces a completed step to three kinds;
the invariant, the stored B and the halt rule are each read off them. -/

namespace Sys2Proof.Machine

/-! ### The kinds of completed step -/

/-- What a service or an executed instruction that began in `s` leaves in `t`. -/
structure Worked (s t : State) : Prop where
  wf : Memory.wf s.mem → Memory.wf t.mem
  halted : t.halted = s.halted
  haltInfo : t.haltInfo = s.haltInfo
  dbg : t.dbg = s.dbg
  b : t.p.b = s.p.b
  logBounded : ∀ r, t.lastStep = some r → r.busLog.length ≤ 7

/-- A step whose work began in `s₀`, which is `s` but for the latches and what the collaborator has seen. -/
theorem worked_completeStep {s s₀ before : State} {kind : StepKind} {d : Decoded} {n m : Nat} {log : List BusEntry}
    {w : Work} (hs : s₀ = { s with nmiPending := s₀.nmiPending, irqPending := s₀.irqPending, calls := s₀.calls })
    (works : Reaches m (Work.start s₀ log) w) (bounded : w.log.length ≤ 7) :
    Worked s (completeStep kind before d n w) := by
  obtain ⟨system, -, -, -, b⟩ := works.held
  have wf := works.wf
  simp only [Work.start_st] at system b wf
  have hmem : s₀.mem = s.mem := by rw [hs]
  have hb : s₀.p.b = s.p.b := by rw [hs]
  exact {
    wf := fun h => wf (hmem ▸ h)
    halted := system.halted.trans (by rw [hs])
    haltInfo := system.haltInfo.trans (by rw [hs])
    dbg := system.dbg.trans (by rw [hs])
    b := b.trans hb
    logBounded := by rintro r ⟨⟩; exact bounded }

/-- The log of work that began with an empty one holds the bus calls it made. -/
theorem Reaches.log_length {n : Nat} {s : State} {w : Work} (h : Reaches n (Work.start s []) w) : w.log.length ≤ n := by
  obtain ⟨l, hl, hn, -⟩ := h.log
  simpa [hl] using hn

/-- Everything a completed step can be: the step of a halted CPU, the halt of an undefined opcode just fetched, or the
work of a service or an instruction. -/
theorem step_kinds {s t : State} (h : step s = .next t) :
    (s.halted = true ∧ t = haltedStep s) ∨
    (s.cfg.illegalPolicy = .halt ∧ ∃ opcode ∈ undefinedOpcodes, ∃ calls, t = haltOn opcode { s with calls := calls }) ∨
    (s.halted = false ∧ Worked s t) := by
  obtain ⟨-, steps⟩ := step_next h
  cases steps with
  | halted hh ends => exact .inl ⟨hh, ends⟩
  | nmi w hh _ works ends =>
    exact .inr (.inr ⟨hh, ends ▸ worked_completeStep rfl works (Nat.le_trans works.log_length (by decide))⟩)
  | irq w hh _ _ _ works ends =>
    exact .inr (.inr ⟨hh, ends ▸ worked_completeStep rfl works (Nat.le_trans works.log_length (by decide))⟩)
  | instruction i u hh _ _ fetched runs =>
    obtain ⟨hwf, hu⟩ := fetchInstr_ok fetched
    rcases exec_next runs with ⟨opcode, rfl, policy, rfl⟩ | ⟨n, w, ⟨ends, works, bounded⟩, -⟩
    · have hmem : opcode ∈ undefinedOpcodes := by simpa [WellFormed, Instr.check] using hwf
      exact .inr (.inl ⟨by rw [hu] at policy; exact policy, opcode, hmem, u.calls, by rw [← hu]⟩)
    · exact .inr (.inr ⟨hh, ends ▸ worked_completeStep (by rw [hu]) works bounded⟩)

/-! ### The invariant under each kind -/

/-- A halted step writes its record alone, and that record's log is empty. -/
theorem inv_haltedStep {s : State} (h : Inv s) : Inv (haltedStep s) :=
  { h with logBounded := by rintro r ⟨⟩; exact Nat.zero_le 7 }

/-- The halt of an undefined opcode leaves its report, with PC on the opcode, and logs one fetch. -/
theorem inv_haltOn {s : State} {opcode : Byte} (h : Inv s) (ho : opcode ∈ undefinedOpcodes) (calls : List BusCall) :
    Inv (haltOn opcode { s with calls := calls }) :=
  { h with
    haltReported := rfl
    haltNames := by rintro r ⟨⟩; exact ⟨ho, rfl⟩
    logBounded := by rintro r ⟨⟩; exact (by decide : 1 ≤ 7) }

/-- Work of a CPU that is not halted: there is no report before it and none after. -/
theorem inv_of_worked {s t : State} (h : Inv s) (hh : s.halted = false) (k : Worked s t) : Inv t := by
  have noReport : t.haltInfo = none := by
    have := h.haltReported
    rw [k.haltInfo]
    simpa [hh] using this
  exact {
    memory := k.wf h.memory
    haltReported := by rw [k.halted, hh, noReport]; rfl
    haltNames := fun r hr => by rw [noReport] at hr; cases hr
    logBounded := k.logBounded
    traceBounded := k.dbg ▸ h.traceBounded
    breakpointsAscend := k.dbg ▸ h.breakpointsAscend
    watchpointsAscend := k.dbg ▸ h.watchpointsAscend
    reportedOnce := k.dbg ▸ h.reportedOnce }

/-! ### The statements -/

/-- Settles O41, one invariant lemma for each kind of step. -/
theorem stepKeepsTheInvariant : Obligations.StepKeepsTheInvariant := by
  intro s t inv h
  rcases step_kinds h with ⟨-, rfl⟩ | ⟨-, opcode, ho, calls, rfl⟩ | ⟨hh, worked⟩
  · exact inv_haltedStep inv
  · exact inv_haltOn inv ho calls
  · exact inv_of_worked inv hh worked

/-- Settles O47: the two halts write no flag, and no work of a step writes the stored B. -/
theorem noStepWritesTheStoredB : Obligations.NoStepWritesTheStoredB := by
  intro s t h
  rcases step_kinds h with ⟨-, rfl⟩ | ⟨-, opcode, -, calls, rfl⟩ | ⟨-, worked⟩
  · rfl
  · rfl
  · exact worked.b

/-- Settles O48: of the three kinds of step, the work of a CPU that is not halted leaves it so, and the two halts write
the record and the report alone. -/
theorem onlyAnUndefinedOpcodeHalts : Obligations.OnlyAnUndefinedOpcodeHalts := by
  intro s t h halted
  rcases step_kinds h with ⟨hh, rfl⟩ | ⟨policy, opcode, ho, calls, rfl⟩ | ⟨hh, worked⟩
  · exact ⟨⟨rfl, rfl, rfl⟩, rfl, rfl, rfl, rfl, rfl, .inl hh⟩
  · exact ⟨⟨rfl, rfl, rfl⟩, rfl, rfl, rfl, rfl, rfl, .inr ⟨policy, _, rfl, ho⟩⟩
  · rw [worked.halted, hh] at halted
    cases halted

/-- Settles O42: memory, the trace and the Debugger's lists are empty at reset, with no report and no record. -/
theorem resetStateMeetsTheInvariant : Obligations.ResetStateMeetsTheInvariant where
  memory := Memory.wf_nil
  haltReported := rfl
  haltNames := by rintro r ⟨⟩
  logBounded := by rintro r ⟨⟩
  traceBounded := Nat.le_refl 0
  breakpointsAscend := .nil
  watchpointsAscend := .nil
  reportedOnce := .nil

end Sys2Proof.Machine
end

section
/-! The memory family (spec/20_memory.md): what a bus read answers, what a store, a push and a failed call leave, and
that a step's bus log lists every store the step makes. -/

namespace Sys2Proof.Machine

/-! ### Memory by the bus log -/

/-- On plain RAM, work whose log began with entries that store nothing leaves memory as its whole log says. -/
theorem Reaches.mem_eq_applyLog {n : Nat} {s : State} {log : List BusEntry} {w : Work}
    (works : Reaches n (Work.start s log) w) (quiet : applyLog s.mem log = s.mem) (ram : IsReferenceRam s.cfg) :
    w.st.mem = applyLog s.mem w.log := by
  obtain ⟨made, hlog, -, stores⟩ := works.log
  rw [hlog, Work.start_log, applyLog_append, quiet]
  exact stores ram

/-- The record of a completed step has the log of its work, so memory is as the record says. The work began in `s₀`,
which has the memory and the configuration of `s`. -/
theorem completeStep_mem_eq_applyLog {kind : StepKind} {before s s₀ : State} {d : Decoded} {n m : Nat}
    {log : List BusEntry} {w : Work} {r : StepRecord} (works : Reaches m (Work.start s₀ log) w)
    (mem : s₀.mem = s.mem) (cfg : s₀.cfg = s.cfg) (quiet : applyLog s.mem log = s.mem) (ram : IsReferenceRam s.cfg)
    (last : (completeStep kind before d n w).lastStep = some r) :
    (completeStep kind before d n w).mem = applyLog s.mem r.busLog := by
  injection last with last
  subst last
  rw [← mem] at quiet ⊢
  exact works.mem_eq_applyLog quiet (cfg ▸ ram)

/-- Settles O46: every kind of step ends in `completeStep` on work that began with an empty log or with fetches, which
store nothing. -/
theorem memoryChangesByTheLogOnly : Obligations.MemoryChangesByTheLogOnly := by
  intro s t r ram h last
  obtain ⟨-, steps⟩ := step_next h
  cases steps with
  | halted _ ends =>
    subst ends
    exact completeStep_mem_eq_applyLog (Reaches.refl _) rfl rfl rfl ram last
  | nmi w _ _ works ends =>
    subst ends
    exact completeStep_mem_eq_applyLog works rfl rfl rfl ram last
  | irq w _ _ _ _ works ends =>
    subst ends
    exact completeStep_mem_eq_applyLog works rfl rfl rfl ram last
  | instruction i u _ _ _ fetched runs =>
    obtain ⟨calls, rfl⟩ : ∃ calls, u = { s with calls := calls } := ⟨_, (fetchInstr_ok fetched).2⟩
    rcases exec_next runs with ⟨opcode, rfl, -, rfl⟩ | ⟨n, w, ⟨rfl, works, -⟩, -⟩
    · exact completeStep_mem_eq_applyLog (Reaches.refl _) rfl rfl (applyLog_fetchLog _ _ _) ram last
    · exact completeStep_mem_eq_applyLog works rfl rfl (applyLog_fetchLog _ _ _) ram last

/-! ### One bus read -/

@[simp] theorem busRead_fixed {a : Word} {s : State} {v : Byte} (h : readAnswerOf s.cfg a = .fixed v) :
    busRead a s = (some v, s) := by
  rw [busRead, h]

@[simp] theorem busRead_device {a : Word} {s : State} (h : readAnswerOf s.cfg a = .device) :
    busRead a s = (some (s.deviceByte a), s.noteCall (.read a)) := by
  rw [busRead, h]

@[simp] theorem busRead_external {a : Word} {s : State} (h : readAnswerOf s.cfg a = .external) :
    busRead a s = (if s.callFails (.read a) then none else some (s.deviceByte a), s.noteCall (.read a)) := by
  rw [busRead, h]

@[simp] theorem busRead_fails {a : Word} {s : State} (h : readAnswerOf s.cfg a = .fails) : busRead a s = (none, s) := by
  rw [busRead, h]

/-- A read that the MemoryInterface answers is logged, and gives the byte. -/
theorem memRead_of_answered {kind : AccessKind} {a : Word} {w : Work} {v : Byte} {s : State}
    (h : busRead a w.st = (some v, s)) :
    memRead kind a w = .ok (v, { w with st := s, log := w.log ++ [⟨kind, a, v⟩] }) := by
  rw [memRead, h]

/-- A read that the MemoryInterface fails is the bus fault. -/
theorem memRead_of_failed {kind : AccessKind} {a : Word} {w : Work} {s : State} (h : busRead a w.st = (none, s)) :
    memRead kind a w = .error (busFaultOf kind a s) := by
  rw [memRead, h]

/-- Settles O16, one read equation for each answer of the map. -/
theorem busReadsByTheMap : Obligations.BusReadsByTheMap := by
  intro kind a w
  refine ⟨memRead_cell, fun v h => memRead_of_answered (busRead_fixed h),
    fun h => ⟨_, memRead_of_answered (busRead_device h)⟩, fun h => ?_, fun h => memRead_of_failed (busRead_fails h)⟩
  have hb := busRead_external h
  cases hf : w.st.callFails (.read a) <;> rw [hf] at hb
  case false => exact .inl ⟨_, memRead_of_answered hb⟩
  case true => exact .inr (memRead_of_failed hb)

/-! ### Stores -/

/-- Settles O17: the laws of `poke`. -/
theorem storesAreReadBack : Obligations.StoresAreReadBack := fun s ea v =>
  ⟨s.peek_poke_same ea v, fun a => s.peek_poke_other ea a v, s.wf_poke ea v⟩

/-! ### A bus failure -/

/-- No step is taken after a bus failure. -/
theorem step_of_faulted {s : State} {failure : BusFailure} (h : s.faulted = some failure) :
    step s = .fault (.afterFault failure) := by
  rw [step, h]

/-- Settles O53: the failing operation began in a state that is `s` but for the latches, and what it held is what the
statement claims. -/
theorem busFailureEndsTheStep : Obligations.BusFailureEndsTheStep := by
  intro s left kind a h
  rcases step_fault h with ⟨failure, -, hf⟩ | ⟨-, running, u, hu, kind', a', left', hf, failed, marked, held⟩
  · cases hf
  · cases hf
    obtain ⟨system, cycles, instructions, lastStep, -⟩ := held
    have cfg : u.cfg = s.cfg := by rw [← hu]
    exact ⟨cfg ▸ failed, cycles.trans (by rw [← hu]), instructions.trans (by rw [← hu]), lastStep.trans (by rw [← hu]),
      system.halted.trans (by rw [← running, ← hu]), marked, step_of_faulted marked⟩

/-! ### The public pushWord and pullWord -/

/-- The bytes of memory after a word is pushed on a stack of plain RAM. -/
def afterPushWord (s : State) (v a : Word) : Byte :=
  if a = stackAddr (s.sp - 1) then lo8 v else if a = stackAddr s.sp then hi8 v else s.peek a

/-- `pushWord` on a stack of plain RAM. -/
theorem publicPushWord_ram {s : State} (v : Word) (ram : StackIsRam s.cfg) :
    ∃ t, publicPushWord v s = .ok t ∧ t.cfg = s.cfg ∧ t.sp = s.sp - 2 ∧ ∀ a, t.peek a = afterPushWord s v a := by
  rw [publicPushWord, pushWord_ram v _ ram]
  refine ⟨_, rfl, rfl, rfl, fun a => ?_⟩
  show ((s.poke (stackAddr s.sp) (hi8 v)).poke (stackAddr (s.sp - 1)) (lo8 v)).peek a = _
  rw [State.peek_poke, State.peek_poke, afterPushWord]

/-- `pullWord` from a stack of plain RAM. -/
theorem publicPullWord_ram {s : State} (ram : StackIsRam s.cfg) :
    ∃ u, publicPullWord s = .ok (word (s.peek (stackAddr (s.sp + 2))) (s.peek (stackAddr (s.sp + 1))), u) ∧
      u.sp = s.sp + 2 ∧ u.mem = s.mem := by
  rw [publicPullWord, pullWord_ram _ ram]
  exact ⟨_, rfl, rfl, rfl⟩

theorem afterPushWord_high (s : State) (v : Word) : afterPushWord s v (stackAddr s.sp) = hi8 v := by
  have apart : stackAddr s.sp ≠ stackAddr (s.sp - 1) := fun e => by have := stackAddr_inj e; bv_omega
  rw [afterPushWord, if_neg apart, if_pos rfl]

theorem afterPushWord_low (s : State) (v : Word) : afterPushWord s v (stackAddr (s.sp - 1)) = lo8 v :=
  if_pos rfl

theorem afterPushWord_outside (s : State) (v a : Word) (h : a.toNat < 0x0100 ∨ 0x0200 ≤ a.toNat) :
    afterPushWord s v a = s.peek a := by
  have outside : ∀ p, a ≠ stackAddr p := by
    rintro p rfl
    have := p.isLt
    rw [stackAddr_toNat] at h
    omega
  rw [afterPushWord, if_neg (outside _), if_neg (outside _)]

/-- Settles O54: the pull reads the two addresses the push wrote, the low byte's first. -/
theorem pushedWordIsPulledBack : Obligations.PushedWordIsPulledBack := by
  intro s v ram
  obtain ⟨t, pushed, cfg, sp, bytes⟩ := publicPushWord_ram v ram
  obtain ⟨u, pulled, spBack, mem⟩ := publicPullWord_ram (cfg.symm ▸ ram : StackIsRam t.cfg)
  have high : t.sp + 2 = s.sp := by rw [sp]; bv_omega
  have low : t.sp + 1 = s.sp - 1 := by rw [sp]; bv_omega
  have hi : t.peek (stackAddr s.sp) = hi8 v := (bytes _).trans (afterPushWord_high s v)
  have lo : t.peek (stackAddr (s.sp - 1)) = lo8 v := (bytes _).trans (afterPushWord_low s v)
  rw [high, low, hi, lo, word_hi8_lo8] at pulled
  exact ⟨t, u, pushed, sp, hi, lo, fun a h => (bytes a).trans (afterPushWord_outside s v a h), pulled,
    spBack.trans high, mem⟩

end Sys2Proof.Machine
end

section
/-! The encoding family (spec/30_encoding.md): the encoder and the decoder are each other's inverse. An instruction is
an opcode and as many operand bytes as the table gives it: `decode_eq_ok_iff` says so of the decoder and
`encode_instrWith` of the encoder. -/

namespace Sys2Proof.Laws.Encoding

/-- Every instruction meets the statement of its constructor; the lemmas stand in the order of the constructors. -/
theorem statement_holds : ∀ i : Instr, Statement i :=
  @Instr.rec Statement
    ldaIzx ldaZp ldaImm ldaAbs ldaIzy ldaZpx ldaAby ldaAbx ldxImm ldxZp ldxAbs ldxZpy ldxAby ldyImm ldyZp ldyAbs
    ldyZpx ldyAbx staIzx staZp staAbs staIzy staZpx staAby staAbx stxZp stxAbs stxZpy styZp styAbs styZpx tax
    tay txa tya tsx txs pha php pla plp adcIzx adcZp adcImm adcAbs adcIzy adcZpx adcAby adcAbx sbcIzx sbcZp
    sbcImm sbcAbs sbcIzy sbcZpx sbcAby sbcAbx cmpIzx cmpZp cmpImm cmpAbs cmpIzy cmpZpx cmpAby cmpAbx cpxImm
    cpxZp cpxAbs cpyImm cpyZp cpyAbs incZp incAbs incZpx incAbx decZp decAbs decZpx decAbx inx iny dex dey
    andIzx andZp andImm andAbs andIzy andZpx andAby andAbx oraIzx oraZp oraImm oraAbs oraIzy oraZpx oraAby
    oraAbx eorIzx eorZp eorImm eorAbs eorIzy eorZpx eorAby eorAbx bitZp bitAbs aslZp aslAcc aslAbs aslZpx aslAbx
    lsrZp lsrAcc lsrAbs lsrZpx lsrAbx rolZp rolAcc rolAbs rolZpx rolAbx rorZp rorAcc rorAbs rorZpx rorAbx bcc
    bcs beq bne bmi bpl bvc bvs jmpAbs jmpInd jsr rts brk rti clc sec cld sed cli sei clv nop undefined

end Sys2Proof.Laws.Encoding

namespace Sys2Proof

/-! ### The undefined opcodes -/

/-- R99 lists the bytes whose entry is not defined, in ascending order. -/
theorem undefinedOpcodes_eq_filter : undefinedOpcodes =
    ((List.finRange 256).map BitVec.ofFin).filter fun opcode => !(table opcode).isDefined := by
  decide +kernel

theorem mem_undefinedOpcodes_iff {opcode : Byte} : opcode ∈ undefinedOpcodes ↔ (table opcode).isDefined = false := by
  have hbyte : opcode ∈ (List.finRange 256).map BitVec.ofFin :=
    List.mem_map.mpr ⟨opcode.toFin, List.mem_finRange _, rfl⟩
  rw [undefinedOpcodes_eq_filter, List.mem_filter, Bool.not_eq_true', and_iff_right hbyte]

/-! ### What the decoder reads -/

/-- The instruction that an opcode and its operand bytes select, as the fetch selects it: a byte the instruction is too
short for counts as 0. -/
def instrWith (opcode : Byte) (operands : List Byte) : Instr := instrOf opcode (operands.getD 0 0) (operands.getD 1 0)

/-- An opcode has no operand byte, one or two (R5). -/
theorem operands_cases {opcode : Byte} {operands : List Byte} (hlen : operands.length + 1 = (table opcode).length) :
    operands = [] ∨ (∃ b1, operands = [b1]) ∨ ∃ b1 b2, operands = [b1, b2] := by
  match operands, hlen with
  | [], _ => exact .inl rfl
  | [b1], _ => exact .inr (.inl ⟨b1, rfl⟩)
  | [b1, b2], _ => exact .inr (.inr ⟨b1, b2, rfl⟩)
  | _ :: _ :: _ :: _, hlen =>
    have := table_length opcode
    simp only [List.length_cons] at hlen
    omega

/-- Two bytes are enough for the operands of any opcode. -/
theorem exists_operands (opcode b1 b2 : Byte) (rest : List Byte) :
    ∃ operands tail, b1 :: b2 :: rest = operands ++ tail ∧ operands.length + 1 = (table opcode).length := by
  rcases table_length opcode with h | h | h <;> rw [h]
  · exact ⟨[], _, rfl, rfl⟩
  · exact ⟨[b1], _, rfl, rfl⟩
  · exact ⟨[b1, b2], _, rfl, rfl⟩

/-- The decoder reads an opcode and then as many operand bytes as the table's length leaves (R97, R102). -/
theorem decode_eq_ok_iff {bytes rest : List Byte} {i : Instr} :
    decode bytes = .ok (i, rest) ↔
      ∃ opcode operands, bytes = opcode :: (operands ++ rest) ∧ operands.length + 1 = (table opcode).length ∧
        instrWith opcode operands = i := by
  constructor
  · intro h
    unfold decode at h
    split at h
    case h_1 => cases h
    case h_2 opcode bytes =>
      split at h <;> cases h
      case h_1 hlen => exact ⟨opcode, [], rfl, hlen.symm, rfl⟩
      case h_2 b1 hlen => exact ⟨opcode, [b1], rfl, hlen.symm, rfl⟩
      case h_3 b1 b2 hlen => exact ⟨opcode, [b1, b2], rfl, hlen.symm, rfl⟩
  · rintro ⟨opcode, operands, rfl, hlen, rfl⟩
    rcases operands_cases hlen with rfl | ⟨b1, rfl⟩ | ⟨b1, b2, rfl⟩ <;> simp [decode, ← hlen, instrWith]

/-! ### What the encoder writes -/

/-- A well-formed instruction has as many bytes as its table entry says (R97). -/
theorem encode_length {i : Instr} (h : WellFormed i) : (encode i).length = (table i.opcode).length :=
  (Laws.Encoding.statement_holds i h).1.symm

/-- A well-formed instruction is the one its opcode and operands select (R90). -/
theorem instrWith_opcode_operands {i : Instr} (h : WellFormed i) : instrWith i.opcode i.operands = i :=
  (Laws.Encoding.statement_holds i h).2

/-- The operands of the instruction selected are the first of the bytes given (R91). -/
theorem instrOf_operands_eq_take (opcode b1 b2 : Byte) :
    (instrOf opcode b1 b2).operands = [b1, b2].take (instrOf opcode b1 b2).operands.length := by
  unfold instrOf
  split <;> rfl

theorem instrWith_wellFormed (opcode : Byte) (operands : List Byte) : WellFormed (instrWith opcode operands) :=
  Machine.instrOf_wellFormed _ _ _

theorem instrWith_opcode (opcode : Byte) (operands : List Byte) : (instrWith opcode operands).opcode = opcode :=
  instrOf_opcode _ _ _

/-- With as many operand bytes as the table's length leaves, the instruction selected has exactly those bytes. -/
theorem encode_instrWith {opcode : Byte} {operands : List Byte} (hlen : operands.length + 1 = (table opcode).length) :
    encode (instrWith opcode operands) = opcode :: operands := by
  have hcount : (instrWith opcode operands).operands.length = operands.length := by
    have h := encode_length (instrWith_wellFormed opcode operands)
    rw [instrWith_opcode, ← hlen] at h
    exact Nat.succ.inj h
  have htake : (instrWith opcode operands).operands =
      [operands.getD 0 0, operands.getD 1 0].take (instrWith opcode operands).operands.length :=
    instrOf_operands_eq_take _ _ _
  rw [encode, instrWith_opcode, htake, hcount]
  rcases operands_cases hlen with rfl | ⟨b1, rfl⟩ | ⟨b1, b2, rfl⟩ <;> rfl

/-! ### The undefined entry -/

/-- The undefined entry is selected exactly where the table entry is not defined (R97). -/
theorem instrWith_eq_undefined_iff {opcode : Byte} {operands : List Byte}
    (hlen : operands.length + 1 = (table opcode).length) :
    (table opcode).isDefined = false ↔ instrWith opcode operands = .undefined opcode := by
  rw [← mem_undefinedOpcodes_iff, ← List.contains_iff_mem]
  constructor
  · intro h
    obtain ⟨hone, hinstr⟩ := Laws.Encoding.undefined_entries opcode h
    have hnone : operands = [] := List.length_eq_zero_iff.mp (by omega)
    rw [hnone]
    exact hinstr
  · intro h
    have hwf := instrWith_wellFormed opcode operands
    rw [h] at hwf
    exact hwf

/-! ### The statements -/

/-- Settles O1: the encoding is an opcode with as many operand bytes as the decoder reads, and they select the
instruction again. -/
theorem decodingAnEncodingGivesTheInstruction : Obligations.DecodingAnEncodingGivesTheInstruction := by
  intro i rest h
  exact decode_eq_ok_iff.mpr ⟨i.opcode, i.operands, rfl, encode_length h, instrWith_opcode_operands h⟩

/-- Settles O2: the decoder read an opcode and its operand bytes, which are what the instruction encodes to. -/
theorem encodingADecodingGivesTheBytes : Obligations.EncodingADecodingGivesTheBytes := by
  intro bytes rest i h
  obtain ⟨opcode, operands, rfl, hlen, rfl⟩ := decode_eq_ok_iff.mp h
  exact ⟨instrWith_wellFormed _ _, by rw [encode_instrWith hlen]; rfl⟩

/-- Settles O3: the bytes after the opcode begin with its operands, and the table's length is that of both together. -/
theorem everyOpcodeByteDecodes : Obligations.EveryOpcodeByteDecodes := by
  intro opcode b1 b2 rest
  obtain ⟨operands, tail, happ, hlen⟩ := exists_operands opcode b1 b2 rest
  refine ⟨instrWith opcode operands, tail, ?_, instrWith_opcode _ _, ?_, instrWith_eq_undefined_iff hlen⟩
  · exact decode_eq_ok_iff.mpr ⟨opcode, operands, by rw [happ], hlen, rfl⟩
  · rw [encode_instrWith hlen, List.length_cons, hlen]

/-- Settles O4: the decoder runs on each of the nine sequences. -/
theorem sampleBytesDecode : Obligations.SampleBytesDecode :=
  ⟨rfl, rfl, rfl, rfl, rfl, rfl, rfl, rfl, rfl⟩

end Sys2Proof
end

section
/-! The engine family (spec/40_engine.md): one step and the instruction it fetches, the effective addresses, and what a
completed step accounts for (`step_accounted`), from which follow progress, the accounting and the budget of `execute`.
-/

namespace Sys2Proof.Machine

/-! ### One step -/

/-- With no fault, halt or serviceable request, a step executes the instruction at PC (R121). -/
theorem step_eq_executeInstruction {s : State} (unfaulted : s.faulted = none) (running : s.halted = false)
    (quiet : s.nmiPending = false) (masked : s.irqPending = false ∨ s.p.i = true) : step s = executeInstruction s := by
  rcases masked with h | h <;> simp [step, unfaulted, running, quiet, h]

/-- Settles O6: the fetch succeeds, and the step runs what it fetched at the state it left. -/
theorem fetchChangesNothingButDeviceReads : Obligations.FetchChangesNothingButDeviceReads := by
  intro s t i unfaulted running quiet masked fetched
  obtain ⟨wellFormed, kept⟩ := fetchInstr_ok fetched
  refine ⟨wellFormed, kept, ?_⟩
  rw [step_eq_executeInstruction unfaulted running quiet masked, executeInstruction, fetched]

/-- The bytes stand in plain memory at consecutive addresses from `a`. -/
def StoredAt (s : State) : Word → List Byte → Prop
  | _, [] => True
  | a, b :: rest => readAnswerOf s.cfg a = .cell ∧ s.peek a = b ∧ StoredAt s (a + 1) rest

theorem StoredAt.left {s : State} {a : Word} {l k : List Byte} (h : StoredAt s a (l ++ k)) : StoredAt s a l := by
  induction l generalizing a with
  | nil => trivial
  | cons b rest ih =>
    obtain ⟨plain, byte, more⟩ := h
    exact ⟨plain, byte, ih more⟩

/-- A fetch of plain memory gives the bytes stored there and changes nothing but the bus log. -/
theorem fetchBytes_of_storedAt {a : Word} {l : List Byte} {w : Work} (stored : StoredAt w.st a l) :
    ∃ log, fetchBytes l.length a w = .ok (l, { w with log := log }) := by
  induction l generalizing a w with
  | nil => exact ⟨w.log, rfl⟩
  | cons b rest ih =>
    obtain ⟨plain, rfl, more⟩ := stored
    obtain ⟨log, fetched⟩ := ih (w := { w with log := w.log ++ [⟨.fetch, a, w.st.peek a⟩] }) more
    refine ⟨log, ?_⟩
    rw [List.length_cons, fetchBytes, memRead_cell plain]
    simp only [bind, Except.bind, fetched]
    rfl

/-- An opcode at PC with as many operand bytes as its length leaves, all plain memory: the fetch gives the instruction
they select and leaves the state as it was. -/
theorem fetchInstr_of_storedAt {s : State} {opcode : Byte} {operands : List Byte}
    (hlen : operands.length + 1 = (table opcode).length) (stored : StoredAt s s.pc (opcode :: operands)) :
    fetchInstr s = .ok (instrWith opcode operands, s) := by
  obtain ⟨plain, rfl, more⟩ := stored
  obtain ⟨log, fetched⟩ := fetchBytes_of_storedAt
    (w := { Work.start s [] with log := [⟨.fetch, s.pc, s.peek s.pc⟩] }) more
  have first : memRead .fetch s.pc (Work.start s []) = .ok (s.peek s.pc, { Work.start s [] with
      log := [⟨.fetch, s.pc, s.peek s.pc⟩] }) := memRead_cell plain
  rw [fetchInstr, first]
  simp only [bind, Except.bind, ← hlen, Nat.add_sub_cancel, fetched]
  rfl

/-- Settles O5: the decoder and the fetch take the same bytes, an opcode and its operands. -/
theorem stepRunsTheInstructionAtPc : Obligations.StepRunsTheInstructionAtPc := by
  intro s i rest unfaulted running quiet masked first second third decoded
  obtain ⟨opcode, operands, bytes, hlen, rfl⟩ := decode_eq_ok_iff.mp decoded
  have stored : StoredAt s s.pc [s.peek s.pc, s.peek (s.pc + 1), s.peek (s.pc + 2)] := by
    have next : s.pc + 1 + 1 = s.pc + 2 := by bv_omega
    exact ⟨first, rfl, second, rfl, next ▸ third, by rw [next], trivial⟩
  rw [bytes, ← List.cons_append] at stored
  rw [step_eq_executeInstruction unfaulted running quiet masked, executeInstruction,
    fetchInstr_of_storedAt hlen stored.left]

/-- A halted CPU takes a halted step, whatever is pending. -/
theorem step_of_halted {s : State} (unfaulted : s.faulted = none) (halted : s.halted = true) :
    step s = .next (haltedStep s) := by
  simp [step, unfaulted, halted]

/-- Settles O7: the halted step adds 0 to the cycles, and its record is new. -/
theorem haltedStepWritesOnlyItsRecord : Obligations.HaltedStepWritesOnlyItsRecord :=
  fun _ unfaulted halted => ⟨_, step_of_halted unfaulted halted, rfl, rfl, rfl, rfl⟩

/-! ### Effective addresses -/

theorem word_eq_ofNat (hi lo : Byte) : word hi lo = BitVec.ofNat 16 (hi.toNat * 256 + lo.toNat) := by
  rw [← word_toNat, BitVec.ofNat_toNat, BitVec.setWidth_eq]

theorem zext16_add_eq_ofNat (b index : Byte) :
    zext16 (b + index) = BitVec.ofNat 16 ((b.toNat + index.toNat) % 256) := by
  rw [zext16, ← BitVec.ofNat_toNat, BitVec.toNat_add]

/-- An indexed address wraps at 65536 (R146, R147, R151). -/
theorem indexed_toNat (base : Word) (index : Byte) :
    (indexed base index).toNat = (base.toNat + index.toNat) % 65536 := by
  rw [indexed, BitVec.toNat_add, zext16_toNat]

/-- A page is crossed where the high byte changes (R148). -/
theorem crosses_eq_decide (base : Word) (index : Byte) :
    crosses base index = decide ((indexed base index).toNat / 256 ≠ base.toNat / 256) := by
  have page : samePage (indexed base index) base =
      decide ((indexed base index).toNat / 256 = base.toNat / 256) := by
    rw [samePage, Bool.eq_iff_iff, beq_iff_eq, decide_eq_true_iff, ← hi8_toNat, ← hi8_toNat, BitVec.toNat_inj]
  rw [crosses, page, decide_not]

/-- The high byte of an address put together from two bytes. -/
theorem word_toNat_div (hi lo : Byte) : (word hi lo).toNat / 256 = hi.toNat := by
  rw [← hi8_toNat, hi8_word]

/-- Settles O14: each address is a sum that wraps at its width, and a crossing is a change of the high byte. -/
theorem directAndIndexedAddresses : Obligations.DirectAndIndexedAddresses := by
  intro b1 b2 w
  have crossed : ∀ index, crosses (word b2 b1) index =
      decide ((indexed (word b2 b1) index).toNat / 256 ≠ b2.toNat) := fun index => by
    rw [crosses_eq_decide, word_toNat_div]
  have sum : ∀ index : Byte, (indexed (word b2 b1) index).toNat =
      (b2.toNat * 256 + b1.toNat + index.toNat) % 65536 := fun index => by
    rw [indexed_toNat, word_toNat]
  refine ⟨indexed (word b2 b1) w.st.x, indexed (word b2 b1) w.st.y, ?zp, ?zpx, ?zpy, ?abs, sum _, ?abx, sum _, ?aby⟩
  case zp => rw [resolve, zext16, BitVec.ofNat_toNat]
  case zpx => rw [resolve, zext16_add_eq_ofNat]
  case zpy => rw [resolve, zext16_add_eq_ofNat]
  case abs => rw [resolve, word_eq_ofNat]
  case abx => rw [resolve, crossed]
  case aby => rw [resolve, crossed]

/-! ### Pointers -/

/-- Two reads that the MemoryInterface answers are put together as a word. -/
theorem readPair_of_reads {kind : AccessKind} {lowAt highAt : Word} {w u v : Work} {lo hi : Byte}
    (low : memRead kind lowAt w = .ok (lo, u)) (high : memRead kind highAt u = .ok (hi, v)) :
    readPair kind lowAt highAt w = .ok (word hi lo, v) := by
  simp only [readPair, low, high, bind, Except.bind]
  rfl

theorem nextInPage_toNat (hi lo : Byte) : (nextInPage (word hi lo)).toNat = hi.toNat * 256 + (lo.toNat + 1) % 256 := by
  rw [nextInPage, hi8_word, lo8_word, word_toNat, BitVec.toNat_add]
  rfl

/-- Settles O15: each form reads a pair at addresses it computes, which the numbers given pin; reading it leaves Y. -/
theorem pointerAddresses : Obligations.PointerAddresses := by
  intro b1 b2 lo hi w u v lowAt highAt low high base
  have pair := readPair_of_reads low high
  have address : word hi lo = BitVec.ofNat 16 base := word_eq_ofNat hi lo
  refine ⟨fun atLow atHigh => ?ind, fun atLow atHigh => ?izx, fun atLow atHigh =>
    ⟨indexed (word hi lo) v.st.y, ?sum, ?izy⟩⟩
  case ind =>
    obtain rfl : lowAt = word b2 b1 := BitVec.eq_of_toNat_eq (by rw [atLow, word_toNat])
    obtain rfl : highAt = nextInPage (word b2 b1) := BitVec.eq_of_toNat_eq (by rw [atHigh, nextInPage_toNat])
    simp only [resolve, readWordPageWrap, pair, ← address]
    rfl
  case izx =>
    obtain rfl : lowAt = zext16 (b1 + w.st.x) := BitVec.eq_of_toNat_eq (by rw [atLow, zext16_toNat, BitVec.toNat_add])
    obtain rfl : highAt = zext16 (b1 + w.st.x + 1) := BitVec.eq_of_toNat_eq (by
      rw [atHigh, zext16_toNat, BitVec.toNat_add, BitVec.toNat_add, Nat.mod_add_mod]; rfl)
    simp only [resolve, readWordZP, pair, ← address]
    rfl
  case sum =>
    have y : v.st.y = w.st.y := by rw [memRead_fetch high, memRead_fetch low]
    rw [indexed_toNat, word_toNat, y]
  case izy =>
    obtain rfl : lowAt = zext16 b1 := BitVec.eq_of_toNat_eq (by rw [atLow, zext16_toNat])
    obtain rfl : highAt = zext16 (b1 + 1) := BitVec.eq_of_toNat_eq (by
      rw [atHigh, zext16_toNat, BitVec.toNat_add]; rfl)
    simp only [resolve, readWordZP, pair, ← word_toNat, base, ← crosses_eq_decide]
    rfl

/-! ### What a completed step accounts for -/

/-- The step from `s` to `t` left the record `r`, which gives the cycles it cost, whether it counts as an instruction
and whether the stack wrapped (R129, R131). -/
structure Accounted (s t : State) (r : StepRecord) : Prop where
  last : t.lastStep = some r
  addr : r.addr = s.pc
  pre : r.pre = s.snapshot
  cycles : t.cycles = s.cycles + r.cycles
  instructions : t.instructions = s.instructions + if r.kind = .instruction then 1 else 0
  wrapped : r.wrapped = true ↔ s.stackWrapCount < t.stackWrapCount
  cfg : t.cfg = s.cfg
  faulted : t.faulted = s.faulted
  cost : r.cycles = 0 ∧ t.halted = true ∨ ordinaryCost r.cycles

/-- A step whose work began in `s₀`, which is `s` but for the latches, the halt state and what the collaborator has
seen. -/
theorem accounted_completeStep {s s₀ : State} {kind : StepKind} {d : Decoded} {n m : Nat} {log : List BusEntry}
    {w : Work} (hs : s₀ = { s with
      nmiPending := s₀.nmiPending, irqPending := s₀.irqPending, halted := s₀.halted, haltInfo := s₀.haltInfo
      calls := s₀.calls })
    (works : Reaches m (Work.start s₀ log) w) (cost : n = 0 ∧ s₀.halted = true ∨ ordinaryCost n) :
    Accounted s (completeStep kind s d n w) (stepRecord kind s d n w) := by
  obtain ⟨system, cycles, instructions, -, -⟩ := works.held
  have wrapped : w.wrapped = true ↔ s₀.stackWrapCount < w.st.stackWrapCount := by simpa using works.wrapped
  simp only [Work.start_st] at system cycles instructions
  have sameInstructions : w.st.instructions = s.instructions := instructions.trans (by rw [hs])
  exact {
    last := rfl
    addr := rfl
    pre := rfl
    cycles := congrArg (· + n) (cycles.trans (by rw [hs]))
    instructions := by
      show (if kind = .instruction then w.st.instructions + 1 else w.st.instructions) = _ + if kind = _ then 1 else 0
      rw [sameInstructions]
      split <;> rfl
    wrapped := by
      have sameCount : s₀.stackWrapCount = s.stackWrapCount := by rw [hs]
      rw [← sameCount]
      exact wrapped
    cfg := system.cfg.trans (by rw [hs])
    faulted := system.faulted.trans (by rw [hs])
    cost := cost.imp_left fun ⟨free, halted⟩ => ⟨free, system.halted.trans halted⟩ }

/-- Every completed step is accounted for: it ends in `completeStep`, on work that touched neither counter. -/
theorem step_accounted {s t : State} (h : step s = .next t) : ∃ r, Accounted s t r := by
  have service : ordinaryCost 7 := ⟨by decide, by decide⟩
  obtain ⟨-, steps⟩ := step_next h
  cases steps with
  | halted hh ends =>
    subst ends
    exact ⟨_, accounted_completeStep rfl (Reaches.refl (Work.start s [])) (.inl ⟨rfl, hh⟩)⟩
  | nmi w _ _ works ends =>
    subst ends
    exact ⟨_, accounted_completeStep rfl works (.inr service)⟩
  | irq w _ _ _ _ works ends =>
    subst ends
    exact ⟨_, accounted_completeStep rfl works (.inr service)⟩
  | instruction i u _ _ _ fetched runs =>
    obtain ⟨calls, rfl⟩ : ∃ calls, u = { s with calls := calls } := ⟨_, (fetchInstr_ok fetched).2⟩
    rcases exec_next runs with ⟨opcode, rfl, -, rfl⟩ | ⟨n, w, ⟨rfl, works, -⟩, ordinary⟩
    · exact ⟨_, accounted_completeStep (s₀ := { s with
        calls := calls, halted := true, haltInfo := some ⟨s.pc, opcode⟩ }) rfl
        (Reaches.refl (Work.start _ (fetchLog s.pc [opcode]))) (.inl ⟨rfl, rfl⟩)⟩
    · exact ⟨_, accounted_completeStep rfl works (.inr ordinary)⟩

/-- Settles O45: a completed step is accounted for, and a bus failure ends a step before its counters advance. -/
theorem stepsAccountForTheirCycles : Obligations.StepsAccountForTheirCycles := by
  intro s
  refine ⟨fun t h => ?_, fun kind a left h => ?_⟩
  · obtain ⟨r, acc⟩ := step_accounted h
    exact ⟨r, acc.last, acc.addr, acc.pre, acc.cycles, acc.instructions, acc.wrapped⟩
  · obtain ⟨-, cycles, instructions, -⟩ := busFailureEndsTheStep s left kind a h
    exact ⟨cycles, instructions⟩

/-- Settles O44: a step that faults names a call that memory failed, no step is refused, and one that completes keeps
the configuration and the mark. -/
theorem noFailureMeansEveryStepCompletes : Obligations.NoFailureMeansEveryStepCompletes := by
  intro s unfaulted sound
  cases h : step s with
  | next t =>
    obtain ⟨r, acc⟩ := step_accounted h
    exact ⟨t, rfl, acc.faulted.trans unfaulted, acc.cfg ▸ sound⟩
  | refused r => exact absurd h (step_refused s r)
  | fault f =>
    rcases step_fault h with ⟨failure, marked, -⟩ | ⟨-, -, u, hu, kind, a, left, rfl, failed, -, -⟩
    · rw [unfaulted] at marked
      cases marked
    · have cfg : u.cfg = s.cfg := by rw [← hu]
      exact absurd (cfg ▸ failed) sound.not_callFailed

/-! ### execute -/

/-- A step of the loop of `execute`: it costs 2 to 7 cycles, or halts the CPU for none. -/
theorem step_lastCycles {s t : State} (h : step s = .next t) :
    t.lastCycles = 0 ∧ t.halted = true ∨ ordinaryCost t.lastCycles := by
  obtain ⟨r, acc⟩ := step_accounted h
  have returned : t.lastCycles = r.cycles := by rw [State.lastCycles, acc.last]
  exact returned ▸ acc.cost

/-- The loop makes no step once its budget is reached or the CPU is halted. -/
theorem executeLoop_of_done {maxCycles fuel consumed : Nat} {s : State}
    (done : maxCycles ≤ consumed ∨ s.halted = true) : executeLoop maxCycles fuel consumed s = .next (consumed, s) := by
  cases fuel with
  | zero => rfl
  | succ fuel =>
    rw [executeLoop, if_neg]
    rintro ⟨below, running⟩
    rcases done with reached | halted
    · omega
    · simp [running] at halted

/-- Otherwise it makes a step and adds the cycles it returned. -/
theorem executeLoop_of_step {maxCycles fuel consumed n : Nat} {s t : State} (below : consumed < maxCycles)
    (running : s.halted = false) (h : executeLoop maxCycles (fuel + 1) consumed s = .next (n, t)) :
    ∃ u, step s = .next u ∧ executeLoop maxCycles fuel (consumed + u.lastCycles) u = .next (n, t) := by
  rw [executeLoop, if_pos ⟨below, running⟩] at h
  cases hs : step s with
  | next u => exact ⟨u, rfl, by rw [hs] at h; exact h⟩
  | fault f => rw [hs] at h; cases h
  | refused r => rw [hs] at h; cases h

/-- What the loop starts with and each of its steps keeps holds when it ends: with steps `left` to make or without. -/
theorem executeLoop_invariant {P : Nat → Nat → State → Prop} {maxCycles n : Nat} {t : State}
    (steps : ∀ fuel consumed s u, consumed < maxCycles → s.halted = false → step s = .next u →
      P (fuel + 1) consumed s → P fuel (consumed + u.lastCycles) u) :
    ∀ {fuel consumed : Nat} {s : State}, P fuel consumed s →
      executeLoop maxCycles fuel consumed s = .next (n, t) →
      ∃ left, P left n t ∧ (left = 0 ∨ maxCycles ≤ n ∨ t.halted = true) := by
  intro fuel
  induction fuel with
  | zero => rintro consumed s hP ⟨⟩; exact ⟨0, hP, .inl rfl⟩
  | succ fuel ih =>
    intro consumed s hP h
    by_cases done : maxCycles ≤ consumed ∨ s.halted = true
    · rw [executeLoop_of_done done] at h
      cases h
      exact ⟨fuel + 1, hP, .inr done⟩
    · obtain ⟨below, running⟩ : consumed < maxCycles ∧ s.halted = false := by simpa using done
      obtain ⟨u, stepped, rest⟩ := executeLoop_of_step below running h
      exact ih (steps fuel consumed s u below running stepped hP) rest

/-- The loop has two cycles of budget for each step left, unless the CPU is halted, and passed its budget by less than
an instruction. -/
def WithinBudget (maxCycles left consumed : Nat) (s : State) : Prop :=
  (maxCycles ≤ consumed + 2 * left ∨ s.halted = true) ∧ (consumed = 0 ∨ consumed < maxCycles + 7)

theorem withinBudget_step {maxCycles left consumed : Nat} {s u : State} (below : consumed < maxCycles)
    (running : s.halted = false) (stepped : step s = .next u) (h : WithinBudget maxCycles (left + 1) consumed s) :
    WithinBudget maxCycles left (consumed + u.lastCycles) u := by
  have enough : maxCycles ≤ consumed + 2 * (left + 1) := by simpa [running] using h.1
  rcases step_lastCycles stepped with ⟨free, halted⟩ | ⟨two, seven⟩
  · exact ⟨.inr halted, .inr (by omega)⟩
  · exact ⟨.inl (by omega), .inr (by omega)⟩

/-- Settles O49: the loop has a step for every two cycles of its budget. -/
theorem executeStopsWithinItsBudget : Obligations.ExecuteStopsWithinItsBudget := by
  intro maxCycles n s t h
  have idle : maxCycles ≤ 0 ∨ s.halted = true → n = 0 ∧ t = s := fun done => by
    rw [execute, executeLoop_of_done done] at h
    cases h
    exact ⟨rfl, rfl⟩
  have start : WithinBudget maxCycles (maxCycles / 2 + 1) 0 s := ⟨.inl (by omega), .inl rfl⟩
  obtain ⟨left, ⟨enough, bound⟩, ends⟩ :=
    executeLoop_invariant (fun _ _ _ _ => withinBudget_step) start h
  refine ⟨?_, bound, fun none => idle (.inl (by omega)), fun halted => idle (.inr halted)⟩
  rcases ends with rfl | ends
  · exact enough
  · exact ends

/-! ### The record of an executed instruction -/

/-- Settles O52: a documented instruction does not halt, so it ends in `completeStep` on work that began with its
fetches. -/
theorem executedInstructionsLeaveTheirRecord : Obligations.ExecutedInstructionsLeaveTheirRecord := by
  intro i s t wellFormed documented h
  rcases exec_next h with ⟨opcode, rfl, -⟩ | ⟨n, w, ⟨rfl, works, -⟩, -⟩
  · have undocumented : opcode ∈ undefinedOpcodes := List.contains_iff_mem.mp wellFormed
    rw [mem_undefinedOpcodes_iff] at undocumented
    exact absurd (undocumented.symm.trans documented) Bool.false_ne_true
  · obtain ⟨made, hlog, -⟩ := works.log
    exact ⟨_, made, rfl, rfl, rfl, rfl, rfl, rfl, rfl, rfl, hlog⟩

end Sys2Proof.Machine
end

section
/-! The engine family, the invariant under every call of the host (spec/40_engine.md R120): what a call of the Debugger
keeps of the Debugger's data, and what an access to memory or the stack keeps of the CPU. -/

namespace Sys2Proof.Machine

/-! ### Finite maps keyed by an address -/

theorem ascending_map_iff {α : Type} {key : α → Word} {l : List α} :
    Ascending (l.map key) ↔ l.Pairwise fun x y => (key x).toNat < (key y).toNat :=
  List.pairwise_map

theorem mem_of_mem_putKey {α : Type} {key : α → Word} {x z : α} {l : List α} (h : z ∈ putKey key x l) :
    z = x ∨ z ∈ l := by
  induction l with
  | nil => exact .inl (List.mem_singleton.mp h)
  | cons y rest ih =>
    rw [putKey] at h
    split at h
    · rcases List.mem_cons.mp h with rfl | h
      · exact .inr (.head _)
      · exact (ih h).imp_right (.tail _)
    · split at h
      · exact (List.mem_cons.mp h).imp_right (.tail _)
      · exact List.mem_cons.mp h

/-- A record is stored in its place. -/
theorem ascending_putKey {α : Type} {key : α → Word} {x : α} {l : List α} (h : Ascending (l.map key)) :
    Ascending ((putKey key x l).map key) := by
  rw [ascending_map_iff] at h ⊢
  induction l with
  | nil => exact List.pairwise_singleton _ x
  | cons y rest ih =>
    obtain ⟨first, more⟩ := List.pairwise_cons.mp h
    rw [putKey]
    split
    case isTrue below =>
      refine List.pairwise_cons.mpr ⟨fun z hz => ?_, ih more⟩
      rcases mem_of_mem_putKey hz with rfl | hz
      · exact below
      · exact first z hz
    case isFalse notBelow =>
      split
      case isTrue same => exact List.pairwise_cons.mpr ⟨fun z hz => same ▸ first z hz, more⟩
      case isFalse other =>
        have above : (key x).toNat < (key y).toNat := by
          have : (key y).toNat ≠ (key x).toNat := fun e => other (BitVec.eq_of_toNat_eq e)
          omega
        refine List.pairwise_cons.mpr ⟨fun z hz => ?_, h⟩
        rcases List.mem_cons.mp hz with rfl | hz
        · exact above
        · exact Nat.lt_trans above (first z hz)

theorem ascending_dropKey {α : Type} {key : α → Word} {a : Word} {l : List α} (h : Ascending (l.map key)) :
    Ascending ((dropKey key a l).map key) :=
  h.sublist (List.filter_sublist.map key)

/-! ### The Debugger's part of the invariant -/

/-- What the invariant says of the Debugger. -/
structure DebuggerInv (d : Debugger) : Prop where
  traceBounded : d.trace.length ≤ d.traceCap
  breakpointsAscend : Ascending (d.breakpoints.map Breakpoint.address)
  watchpointsAscend : Ascending (d.watchpoints.map Watchpoint.address)
  reportedOnce : d.reported.Nodup

theorem Inv.debugger {s : State} (h : Inv s) : DebuggerInv s.dbg :=
  ⟨h.traceBounded, h.breakpointsAscend, h.watchpointsAscend, h.reportedOnce⟩

theorem debuggerInv_unreport {target : Target} {address : Word} {d : Debugger} (h : DebuggerInv d) :
    DebuggerInv (unreport target address d) :=
  { h with reportedOnce := h.reportedOnce.filter _ }

theorem debuggerInv_reportOnce {target : Target} {address : Word} {d : Debugger} (h : DebuggerInv d) :
    DebuggerInv (reportOnce target address d) := by
  unfold reportOnce
  split
  case isTrue => exact h
  case isFalse fresh =>
    have apart : ∀ k ∈ d.reported, k ≠ (target, address) := fun k hk e => fresh (e ▸ hk)
    exact { h with
      reportedOnce := List.nodup_append.mpr
        ⟨h.reportedOnce, List.pairwise_singleton _ _, fun k hk l hl => List.mem_singleton.mp hl ▸ apart k hk⟩ }

theorem debuggerInv_startDebugging {d : Debugger} (h : DebuggerInv d) : DebuggerInv (startDebugging d) := by
  unfold startDebugging
  split
  · exact h
  · exact { h with reportedOnce := .nil }

theorem debuggerInv_stopDebugging (d : Debugger) : DebuggerInv (stopDebugging d) :=
  ⟨Nat.zero_le _, .nil, .nil, .nil⟩

theorem debuggerInv_pollEvents {d : Debugger} (h : DebuggerInv d) : DebuggerInv (pollEvents d).2 :=
  { h with }

theorem debuggerInv_startTracing {maxEntries : Nat} {d : Debugger} (h : DebuggerInv d) :
    DebuggerInv (startTracing maxEntries d) :=
  { h with traceBounded := Nat.zero_le _ }

theorem debuggerInv_stopTracing {d : Debugger} (h : DebuggerInv d) : DebuggerInv (stopTracing d).2 :=
  { h with traceBounded := Nat.zero_le _ }

theorem debuggerInv_storeBreakpoint {b : Breakpoint} {d : Debugger} (h : DebuggerInv d) :
    DebuggerInv (storeBreakpoint b d) :=
  debuggerInv_unreport { h with breakpointsAscend := ascending_putKey h.breakpointsAscend }

theorem debuggerInv_removeBreakpoint {address : Word} {d : Debugger} (h : DebuggerInv d) :
    DebuggerInv (removeBreakpoint address d).2 :=
  debuggerInv_unreport { h with breakpointsAscend := ascending_dropKey h.breakpointsAscend }

theorem debuggerInv_clearBreakpoints {d : Debugger} (h : DebuggerInv d) : DebuggerInv (clearBreakpoints d) :=
  { h with breakpointsAscend := .nil, reportedOnce := h.reportedOnce.filter _ }

theorem debuggerInv_storeWatchpoint {address : Word} {accessType : AccessType} {condition : Option Pred}
    {name : Option String} {value : Option Byte} {d : Debugger} (h : DebuggerInv d) :
    DebuggerInv (storeWatchpoint address accessType condition name value d) :=
  debuggerInv_unreport { h with watchpointsAscend := ascending_putKey h.watchpointsAscend }

theorem debuggerInv_removeWatchpoint {address : Word} {d : Debugger} (h : DebuggerInv d) :
    DebuggerInv (removeWatchpoint address d).2 :=
  debuggerInv_unreport { h with watchpointsAscend := ascending_dropKey h.watchpointsAscend }

theorem debuggerInv_clearWatchpoints {d : Debugger} (h : DebuggerInv d) : DebuggerInv (clearWatchpoints d) :=
  { h with watchpointsAscend := .nil, reportedOnce := h.reportedOnce.filter _ }

/-! ### Observation -/

/-- An entry is added only where there is room. -/
theorem debuggerInv_traceAppend {s : State} {r : StepRecord} {d : Debugger} (h : DebuggerInv d) :
    DebuggerInv (traceAppend s r d) := by
  unfold traceAppend
  split
  case h_2 => exact h
  case h_1 opcode =>
    split
    case isFalse => exact h
    case isTrue appended =>
      obtain ⟨-, -, room⟩ := appended
      exact { h with traceBounded := by rw [List.length_append]; exact room }

theorem debuggerInv_checkBreakpoints {s : State} {r : StepRecord} {d : Debugger} (h : DebuggerInv d) :
    DebuggerInv (checkBreakpoints s r d) := by
  unfold checkBreakpoints
  split
  · exact h
  · split
    · exact h
    · split
      · exact h
      · split
        · exact debuggerInv_reportOnce h
        · exact h
        · refine { h with breakpointsAscend := ?_ }
          dsimp only
          split
          · exact ascending_dropKey h.breakpointsAscend
          · exact ascending_putKey h.breakpointsAscend

/-- A watchpoint's check keeps its address. -/
theorem checkWatchpoint_keeps {s : State} {r : StepRecord} {w : Watchpoint} {d : Debugger} (h : DebuggerInv d) :
    (checkWatchpoint s r w d).1.address = w.address ∧ DebuggerInv (checkWatchpoint s r w d).2 := by
  unfold checkWatchpoint
  split
  · exact ⟨rfl, h⟩
  · split
    · exact ⟨rfl, h⟩
    · split
      · exact ⟨rfl, debuggerInv_reportOnce h⟩
      · exact ⟨rfl, h⟩
      · exact ⟨rfl, { h with }⟩

theorem checkWatchpointList_keeps {s : State} {r : StepRecord} {l : List Watchpoint} {d : Debugger}
    (h : DebuggerInv d) :
    (checkWatchpointList s r l d).1.map Watchpoint.address = l.map Watchpoint.address ∧
      DebuggerInv (checkWatchpointList s r l d).2 := by
  induction l generalizing d with
  | nil => exact ⟨rfl, h⟩
  | cons w rest ih =>
    obtain ⟨address, kept⟩ := checkWatchpoint_keeps (s := s) (r := r) (w := w) h
    obtain ⟨addresses, keptToo⟩ := ih kept
    refine ⟨?_, keptToo⟩
    rw [List.map_cons, ← address, ← addresses]
    rfl

theorem debuggerInv_checkWatchpoints {s : State} {r : StepRecord} {d : Debugger} (h : DebuggerInv d) :
    DebuggerInv (checkWatchpoints s r d) := by
  obtain ⟨addresses, kept⟩ := checkWatchpointList_keeps (s := s) (r := r) (l := d.watchpoints) h
  exact { kept with watchpointsAscend := addresses.symm ▸ h.watchpointsAscend }

theorem debuggerInv_observeWith {s : State} {r : StepRecord} {d : Debugger} (h : DebuggerInv d) :
    DebuggerInv (observeWith s r d) := by
  unfold observeWith
  split
  case isFalse => exact h
  case isTrue =>
    have counted : DebuggerInv { d with stepIndex := d.stepIndex + 1 } := { h with }
    have checked := debuggerInv_checkBreakpoints (s := s) (r := r)
      (debuggerInv_checkWatchpoints (s := s) (r := r) (debuggerInv_traceAppend (s := s) (r := r) counted))
    exact { checked with }

/-! ### The invariant under changes of the state -/

/-- The invariant speaks of memory, the halt report, PC, the last record and the Debugger alone. -/
theorem Inv.of_kept {s t : State} (h : Inv s) (wf : Memory.wf s.mem → Memory.wf t.mem) (pc : t.pc = s.pc)
    (halted : t.halted = s.halted) (haltInfo : t.haltInfo = s.haltInfo) (lastStep : t.lastStep = s.lastStep)
    (dbg : DebuggerInv t.dbg) : Inv t where
  memory := wf h.memory
  haltReported := by rw [halted, haltInfo, h.haltReported]
  haltNames := by rw [haltInfo, pc]; exact h.haltNames
  logBounded := by rw [lastStep]; exact h.logBounded
  traceBounded := dbg.traceBounded
  breakpointsAscend := dbg.breakpointsAscend
  watchpointsAscend := dbg.watchpointsAscend
  reportedOnce := dbg.reportedOnce

theorem Inv.with_dbg {s : State} (h : Inv s) {d : Debugger} (hd : DebuggerInv d) : Inv { s with dbg := d } :=
  h.of_kept id rfl rfl rfl rfl hd

/-- A call the collaborator has seen. -/
theorem inv_busRead {s : State} (a : Word) (h : Inv s) : Inv (busRead a s).2 := by
  have kept : (busRead a s).2 = { s with calls := (busRead a s).2.calls } := busRead_state rfl
  rw [kept]
  exact h.of_kept id rfl rfl rfl rfl h.debugger

theorem inv_readCells {n : Nat} {a : Word} {s : State} (h : Inv s) : Inv (readCells n a s).2 := by
  induction n generalizing a s with
  | zero => exact h
  | succ n ih => exact ih (inv_busRead a h)

theorem inv_setWatchpoint {a : Word} {accessType : AccessType} {condition : Option Pred} {name : Option String}
    {s : State} (h : Inv s) : Inv (setWatchpoint a accessType condition name s) :=
  (inv_busRead a h).with_dbg (debuggerInv_storeWatchpoint (inv_busRead a h).debugger)

theorem inv_observe {s : State} (h : Inv s) : Inv (observe s) := by
  unfold observe
  split
  · exact h.with_dbg (debuggerInv_observeWith h.debugger)
  · exact h

/-- Reset leaves no report and no record. -/
theorem inv_resetTo {s : State} (target : Word) (h : Inv s) : Inv (resetTo target s) :=
  { h with
    haltReported := rfl
    haltNames := by rintro r ⟨⟩
    logBounded := by rintro r ⟨⟩ }

/-! ### Accesses to memory and to the stack -/

/-- An operation that leaves PC as it was, where it completes. -/
def KeepsPc {β : Type} (w : Work) (out : β → Work) (r : Except Fault β) : Prop :=
  ∀ x, r = .ok x → (out x).st.pc = w.st.pc

theorem KeepsPc.bind {β γ : Type} {w : Work} {out : β → Work} {out' : γ → Work} {r : Except Fault β}
    {k : β → Except Fault γ} (h : KeepsPc w out r) (hk : ∀ x, KeepsPc (out x) out' (k x)) :
    KeepsPc w out' (r >>= k) := by
  cases r with
  | error f => rintro y ⟨⟩
  | ok x => exact fun y hy => (hk x y hy).trans (h x rfl)

theorem KeepsPc.pure {β : Type} {w : Work} {out : β → Work} {x : β} (h : (out x).st.pc = w.st.pc) :
    KeepsPc w out (Pure.pure x : Except Fault β) := by
  rintro y ⟨⟩
  exact h

theorem memRead_keepsPc (kind : AccessKind) (a : Word) (w : Work) : KeepsPc w Prod.snd (memRead kind a w) := by
  rintro ⟨v, u⟩ h
  show u.st.pc = w.st.pc
  rw [memRead_fetch h]

theorem memWrite_keepsPc (kind : AccessKind) (a : Word) (v : Byte) (w : Work) :
    KeepsPc w id (memWrite kind a v w) := by
  intro u h
  show u.st.pc = w.st.pc
  rw [busWrite_state (memWrite_ok h).1]
  split <;> rfl

theorem push_keepsPc (v : Byte) (w : Work) : KeepsPc w id (push v w) :=
  (memWrite_keepsPc .stackWrite (stackAddr w.st.sp) v w).bind fun u =>
    .pure (by rw [Work.countWrap_eq]; rfl)

theorem pull_keepsPc (w : Work) : KeepsPc w Prod.snd (pull w) := by
  rw [pull_eq]
  exact memRead_keepsPc .stackRead _ _

theorem pushWord_keepsPc (v : Word) (w : Work) : KeepsPc w id (pushWord v w) :=
  (push_keepsPc (hi8 v) w).bind fun u => push_keepsPc (lo8 v) u

theorem pullWord_keepsPc (w : Work) : KeepsPc w Prod.snd (pullWord w) :=
  (pull_keepsPc w).bind fun x => (pull_keepsPc x.2).bind fun _ => .pure rfl

theorem readWord_keepsPc (a : Word) (w : Work) : KeepsPc w Prod.snd (readWord a w) :=
  (memRead_keepsPc .vector a w).bind fun x => (memRead_keepsPc .vector (a + 1) x.2).bind fun _ => .pure rfl

/-- Bus calls that leave PC alone keep the invariant. -/
theorem inv_of_tracks {β : Type} {n : Nat} {s : State} {out : β → Work} {r : Except Fault β} {x : β} (inv : Inv s)
    (tracks : Tracks n (Work.start s []) out r) (pc : KeepsPc (Work.start s []) out r) (h : r = .ok x) :
    Inv (out x).st := by
  have samePc := pc x h
  subst h
  obtain ⟨⟨system, -, -, lastStep, -⟩, wf, -⟩ := tracks
  have dbg : (out x).st.dbg = s.dbg := system.dbg
  exact inv.of_kept wf samePc system.halted system.haltInfo lastStep (dbg ▸ inv.debugger)

/-! ### The host's calls -/

/-- A call that completes leaves a state that meets the invariant. -/
def LeavesInv (o : Host.Outcome (Answer × State) Fault Refusal) : Prop :=
  ∀ answer t, o = .next (answer, t) → Inv t

theorem leavesInv_next {answer : Answer} {t : State} (h : Inv t) : LeavesInv (.next (answer, t)) := by
  rintro _ _ ⟨⟩
  exact h

theorem leavesInv_answerOf {α : Type} {f : α → Answer × State} {r : Except Fault α}
    (h : ∀ x, r = .ok x → Inv (f x).2) : LeavesInv (answerOf f r) := by
  cases r with
  | error e => rintro _ _ ⟨⟩
  | ok x => exact leavesInv_next (h x rfl)

theorem leavesInv_answerStep {o : Host.Outcome State Fault Refusal} (h : ∀ t, o = .next t → Inv t) :
    LeavesInv (answerStep o) := by
  cases o with
  | next t => exact leavesInv_next (h t rfl)
  | fault f => rintro _ _ ⟨⟩
  | refused r => rintro _ _ ⟨⟩

/-- A call that answers from bus calls which leave PC alone. -/
theorem leavesInv_access {β γ : Type} {n : Nat} {s : State} {out : β → Work} {r : Except Fault β} (g : β → γ)
    (f : γ → Answer × State) (inv : Inv s) (tracks : Tracks n (Work.start s []) out r)
    (pc : KeepsPc (Work.start s []) out r) (leaves : ∀ x, (f (g x)).2 = (out x).st) :
    LeavesInv (answerOf f (r >>= fun x => pure (g x))) := by
  cases h : r with
  | error e => rintro _ _ ⟨⟩
  | ok x => exact leavesInv_next (leaves x ▸ inv_of_tracks inv tracks pc h)

theorem leavesInv_reset {s : State} (inv : Inv s) : LeavesInv (perform .reset s) := by
  refine leavesInv_answerOf fun t h => ?_
  unfold resetCpu at h
  cases vector : readWord resetVector (Work.start s []) with
  | error e => rw [vector] at h; cases h
  | ok x =>
    rw [vector] at h
    cases h
    exact inv_resetTo _ (inv_of_tracks inv (readPair_tracks .vector _ _ _ (by simp) (by simp))
      (readWord_keepsPc _ _) vector)

theorem leavesInv_execute {maxCycles : Nat} {s : State} (inv : Inv s) : LeavesInv (perform (.execute maxCycles) s) := by
  intro answer t h
  change answerExecute (execute maxCycles s) = _ at h
  cases ran : execute maxCycles s with
  | next x =>
    rw [ran] at h
    cases h
    obtain ⟨-, kept, -⟩ := executeLoop_invariant (P := fun _ _ => Inv)
      (fun _ _ s u _ _ stepped inv => stepKeepsTheInvariant s u inv stepped) inv ran
    exact kept
  | fault f => rw [ran] at h; cases h
  | refused r => rw [ran] at h; cases h

theorem leavesInv_debugStep {s : State} (inv : Inv s) : LeavesInv (perform .debugStep s) := by
  refine leavesInv_answerStep fun t h => ?_
  unfold debugStep at h
  cases stepped : step s with
  | next u =>
    rw [stepped] at h
    cases h
    exact inv_observe (stepKeepsTheInvariant s u inv stepped)
  | fault f => rw [stepped] at h; cases h
  | refused r => rw [stepped] at h; cases h

/-- Settles O43, call by call: a step, the bus calls of an accessor, and the Debugger's operations each keep it. -/
theorem everyCallKeepsTheInvariant : Obligations.EveryCallKeepsTheInvariant := by
  intro c s t answer inv h
  suffices leaves : LeavesInv (perform c s) from leaves answer t h
  clear h answer t
  have dbg := inv.debugger
  have asBefore : ∀ {answer}, LeavesInv (.next (answer, s)) := leavesInv_next inv
  have onDebugger : ∀ {answer f}, DebuggerInv (f s.dbg) → LeavesInv (.next (answer, s.mapDbg f)) :=
    fun hd => leavesInv_next (inv.with_dbg hd)
  cases c with
  | reset => exact leavesInv_reset inv
  | step => exact leavesInv_answerStep fun t h => stepKeepsTheInvariant s t inv h
  | execute maxCycles => exact leavesInv_execute inv
  | debugStep => exact leavesInv_debugStep inv
  | read a =>
    exact leavesInv_access (fun x => (x.1, x.2.st)) (fun x => (.byte x.1, x.2)) inv
      (memRead_tracks .read a _ (by simp) (by simp)) (memRead_keepsPc _ _ _) fun _ => rfl
  | write a v =>
    exact leavesInv_access Work.st (fun t => (.done, t)) inv (memWrite_tracks .write a v _ (.inl rfl))
      (memWrite_keepsPc _ _ _ _) fun _ => rfl
  | pushByte v =>
    exact leavesInv_access Work.st (fun t => (.done, t)) inv (push_tracks v _) (push_keepsPc _ _) fun _ => rfl
  | pullByte =>
    exact leavesInv_access (fun x => (x.1, x.2.st)) (fun x => (.byte x.1, x.2)) inv (pull_tracks _)
      (pull_keepsPc _) fun _ => rfl
  | pushWord w =>
    exact leavesInv_access Work.st (fun t => (.done, t)) inv (pushWord_tracks w _) (pushWord_keepsPc _ _) fun _ => rfl
  | pullWord =>
    exact leavesInv_access (fun x => (x.1, x.2.st)) (fun x => (.word x.1, x.2)) inv (pullWord_tracks _)
      (pullWord_keepsPc _) fun _ => rfl
  | setFlag f value => exact leavesInv_next (inv.of_kept id rfl rfl rfl rfl dbg)
  | irq => exact leavesInv_next (inv.of_kept id rfl rfl rfl rfl dbg)
  | nmi => exact leavesInv_next (inv.of_kept id rfl rfl rfl rfl dbg)
  | getFlag f => exact asBefore
  | isDebuggingActive => exact asBefore
  | getBreakpoints => exact asBefore
  | getWatchpoints => exact asBefore
  | getPerformanceProfile => exact asBefore
  | getComprehensiveDebugInfo => exact asBefore
  | startDebugging => exact onDebugger (debuggerInv_startDebugging dbg)
  | stopDebugging => exact onDebugger (debuggerInv_stopDebugging s.dbg)
  | pollEvents => exact onDebugger (debuggerInv_pollEvents dbg)
  | setBreakpoint a condition name => exact onDebugger (debuggerInv_storeBreakpoint dbg)
  | setConditionalBreakpoint a condition name => exact onDebugger (debuggerInv_storeBreakpoint dbg)
  | setTemporaryBreakpoint a name => exact onDebugger (debuggerInv_storeBreakpoint dbg)
  | removeBreakpoint a => exact onDebugger (debuggerInv_removeBreakpoint dbg)
  | clearBreakpoints => exact onDebugger (debuggerInv_clearBreakpoints dbg)
  | setWatchpoint a accessType condition name => exact leavesInv_next (inv_setWatchpoint inv)
  | removeWatchpoint a => exact onDebugger (debuggerInv_removeWatchpoint dbg)
  | clearWatchpoints => exact onDebugger (debuggerInv_clearWatchpoints dbg)
  | startTracing maxEntries => exact onDebugger (debuggerInv_startTracing dbg)
  | stopTracing => exact onDebugger (debuggerInv_stopTracing dbg)
  | dumpMemory start length => exact leavesInv_next (inv_readCells inv)

end Sys2Proof.Machine
end

section
/-! The load, store and transfer family (spec/41_load_store_transfer.md): what an instruction of the read, the write and
the register-only class leaves, each said once for its class, with what a load, a store and a transfer make of it. -/

namespace Sys2Proof.Machine

/-! ### The frame of an instruction that falls through -/

/-- PC, memory and the calls the collaborator has seen are not part of what a step's work holds. -/
theorem Held.with_mem_pc_calls {s t : State} (h : Held s t) (mem : List Host.Cell) (pc : Word)
    (calls : List BusCall) : Held s { t with mem := mem, pc := pc, calls := calls } :=
  ⟨{ h.system with }, h.cycles, h.instructions, h.lastStep, h.b⟩

/-- An instruction falls through where its work moved PC past it and left what every step's work holds. -/
theorem fallsThrough_completeStep {i : Instr} {extra : Nat} {s : State} {d : Decoded} {w : Work} (held : Held s w.st)
    (pc : w.st.pc = nextPc i s) :
    FallsThrough i extra s (completeStep .instruction s d ((table i.opcode).baseCycles + extra) w) where
  retired := {
    cycles := congrArg (· + ((table i.opcode).baseCycles + extra)) held.cycles
    returned := rfl
    instructions := congrArg (· + 1) held.instructions }
  pc := pc
  system := { held.system with }

/-- Only the read class has a page penalty (R161). -/
theorem pageExtra_eq_zero {i : Instr} (crossed : Bool) (notRead : ∀ op f, shapeOf i ≠ .read op f)
    (documented : ∀ opcode, shapeOf i ≠ .undefined opcode) : pageExtra i crossed = 0 := by
  have unpaged : (table i.opcode).penalty ≠ .page := by
    -- `simp_all` closes the two classes ruled out; the entry of every other instruction is read off the table.
    cases i <;> simp_all [shapeOf] <;> (simp only [Instr.opcode]; decide)
  exact if_neg fun h => unpaged h.1

/-! ### The read class -/

/-- A read-class action neither reads nor writes PC and the calls the collaborator has seen. -/
theorem readAction_with_pc_calls (op : ReadOp) (v : Byte) (s : State) (pc : Word) (calls : List BusCall) :
    readAction op v { s with pc := pc, calls := calls } = { readAction op v s with pc := pc, calls := calls } := by
  cases op
  case adc =>
    simp only [readAction, actAdc]
    split <;> rfl
  all_goals rfl

theorem readAction_sp (op : ReadOp) (v : Byte) (s : State) : (readAction op v s).sp = s.sp := by
  cases op
  case adc =>
    simp only [readAction, actAdc]
    split <;> rfl
  all_goals rfl

/-- A read-class instruction whose operand can be read: its action decides the registers and flags it leaves, and the
rest is the same for the whole class (R153, R160, R161). -/
theorem exec_read_frame {i : Instr} {op : ReadOp} {f : ReadForm} {s : State} {v : Byte} {crossed : Bool} {w : Work}
    (hs : shapeOf i = .read op f) (ho : operandOf i f s = .ok (v, crossed, w)) :
    ∃ t, exec i s = .next t ∧
      t.a = (readAction op v s).a ∧ t.x = (readAction op v s).x ∧ t.y = (readAction op v s).y ∧
      t.p = (readAction op v s).p ∧
      FallsThrough i (pageExtra i crossed) s t ∧ StackKept s t ∧ MemoryKept s t := by
  have acted : w.mapState (readAction op v) =
      { st := { readAction op v s with pc := nextPc i s, calls := w.st.calls }, log := w.log, wrapped := w.wrapped } := by
    rw [Work.mapState, (operandOf_state ho).1, readAction_with_pc_calls]
  have ran := exec_read hs ho
  rw [acted, cycleCount_zero] at ran
  obtain ⟨held, mem, stackWrapCount⟩ := readAction_regsOnly op v s
  exact ⟨_, ran, rfl, rfl, rfl, rfl, fallsThrough_completeStep (held.with_mem_pc_calls _ _ _) rfl,
    ⟨readAction_sp op v s, stackWrapCount⟩, State.peek_congr mem⟩

/-- Settles O18: the actions of LDA, LDX and LDY, in the frame of the read class. -/
theorem loadsPutTheOperandInTheRegister : Obligations.LoadsPutTheOperandInTheRegister := by
  intro i op f s v crossed w hs ho loads
  obtain ⟨t, ran, a, x, y, p, frame⟩ := exec_read_frame hs ho
  rcases loads with rfl | rfl | rfl <;> exact ⟨t, ran, a, x, y, p, frame⟩

/-! ### The write class -/

/-- What a write the MemoryInterface accepts makes of the state, as an update of memory alone. -/
theorem ite_poke_eq (c : Prop) [Decidable c] (s : State) (ea : Word) (v : Byte) :
    (if c then s.poke ea v else s) = { s with mem := (if c then s.poke ea v else s).mem } := by
  split <;> rfl

/-- The bytes of memory after a write the MemoryInterface accepts. -/
theorem peek_accepted (s : State) (ea : Word) (v : Byte) (a : Word) :
    (if writeAnswerOf s.cfg ea = .cell then s.poke ea v else s).peek a = afterStore s ea v a := by
  unfold afterStore
  by_cases stored : writeAnswerOf s.cfg ea = .cell
  · simp [stored, State.peek_poke]
  · simp [stored]

/-- Settles O19: an accepted write updates memory alone, and the class has no page penalty. -/
theorem storesWriteOneByte : Obligations.StoresWriteOneByte := by
  intro i r f s ea crossed w u v hs ho hw
  have value : v = storeValue r s := by cases r <;> rfl
  clear_value v
  subst value
  have ran := exec_write hs ho hw
  have free : pageExtra i crossed = 0 := pageExtra_eq_zero crossed (by simp [hs]) (by simp [hs])
  rw [cycleCount_zero, free, ite_poke_eq] at ran
  exact ⟨_, ran, peek_accepted s ea _, rfl, ⟨rfl, rfl, rfl⟩,
    fallsThrough_completeStep ((Held.refl s).with_mem_pc_calls _ _ _) rfl, ⟨rfl, rfl⟩⟩

/-! ### The register-only instructions -/

/-- The table's entry of a register-only instruction: one byte, two cycles. -/
theorem inherent_entry {i : Instr} {op : InherentOp} (hs : shapeOf i = .inherent op) :
    (table i.opcode).length = 1 ∧ (table i.opcode).baseCycles = 2 := by
  cases i <;> cases hs <;> exact ⟨rfl, rfl⟩

/-- The whole state a register-only instruction leaves, but for its record. -/
theorem exec_inherent_next {i : Instr} {op : InherentOp} (s : State) (hs : shapeOf i = .inherent op) :
    ∃ r, exec i s = .next { inherentAction op s with
      pc := s.pc + 1, cycles := s.cycles + 2, instructions := s.instructions + 1, lastStep := some r } := by
  obtain ⟨length, baseCycles⟩ := inherent_entry hs
  have cost : cycleCount (table i.opcode) 0 false = 2 := by simp [cycleCount_zero, baseCycles, pageExtra]
  have next : nextPc i s = s.pc + 1 := by rw [nextPc, length]; rfl
  have ran := exec_inherent s hs
  rw [completeStep, Work.mapState_st, begun_advanced, next, cost] at ran
  cases op <;> exact ⟨_, ran⟩

/-- Settles O20: each transfer is a register-only instruction, whose action is the update of the rule. -/
theorem transfersCopyOneRegister : Obligations.TransfersCopyOneRegister := by
  intro s next
  have transfer : ∀ {i : Instr} {op : InherentOp}, shapeOf i = .inherent op → next i (inherentAction op s) :=
    exec_inherent_next s
  exact ⟨transfer (i := .tax) rfl, transfer (i := .tay) rfl, transfer (i := .txa) rfl, transfer (i := .tya) rfl,
    transfer (i := .tsx) rfl, transfer (i := .txs) rfl⟩

end Sys2Proof.Machine
end

section
/-! The stack family (spec/42_stack.md): what one push and one pull leave on any memory that answers them, and the frame
of an instruction that makes one of the two and falls through. -/

namespace Sys2Proof.Machine

/-! ### Bus calls and the registers -/

/-- The MemoryInterface sees neither PC, nor SP, nor the wrap counter when it answers a read. -/
theorem busRead_with_pc_sp_wraps (a : Word) (s : State) (pc : Word) (sp : Byte) (wraps : Nat) :
    busRead a { s with pc := pc, sp := sp, stackWrapCount := wraps } =
      ((busRead a s).1, { (busRead a s).2 with pc := pc, sp := sp, stackWrapCount := wraps }) := by
  unfold busRead
  cases readAnswerOf s.cfg a <;> rfl

/-- The MemoryInterface does not see PC when it answers a write. -/
theorem busWrite_with_pc (a : Word) (v : Byte) (s : State) (pc : Word) :
    busWrite a v { s with pc := pc } = ((busWrite a v s).1, { (busWrite a v s).2 with pc := pc }) := by
  unfold busWrite
  cases writeAnswerOf s.cfg a <;> rfl

/-- A write changes memory, as `afterStore` says, and the calls the collaborator has seen, and nothing else. -/
theorem busWrite_updates {a : Word} {v : Byte} {s u : State} {ok : Bool} (h : busWrite a v s = (ok, u)) :
    u = { s with mem := u.mem, calls := u.calls } ∧ ∀ b, u.peek b = afterStore s a v b := by
  have state := busWrite_state h
  rw [ite_poke_eq] at state
  have mem : u.mem = (if writeAnswerOf s.cfg a = .cell then s.poke a v else s).mem := by rw [state]
  exact ⟨by rw [mem]; exact state, fun b => (State.peek_congr mem b).trans (peek_accepted s a v b)⟩

/-! ### One push and one pull -/

/-- The model counts a wrap by a `Bool`, the statements by a condition. -/
theorem toNat_sp_beq (sp edge : Byte) : (sp == edge).toNat = if sp = edge then 1 else 0 := by
  by_cases h : sp = edge <;> simp [h]

/-- A push that the MemoryInterface accepts (R67). -/
theorem push_of_accepted {v : Byte} {w : Work} {u : State} (h : busWrite (stackAddr w.st.sp) v w.st = (true, u)) :
    ∃ log wrapped, push v w = .ok
      { st := { u with
          sp := w.st.sp - 1, stackWrapCount := w.st.stackWrapCount + if w.st.sp = 0 then 1 else 0 }
        log := log, wrapped := wrapped } := by
  obtain ⟨mem, calls, rfl⟩ : ∃ mem calls, u = { w.st with mem := mem, calls := calls } :=
    ⟨_, _, (busWrite_updates h).1⟩
  rw [push_eq, memWrite, h, ← toNat_sp_beq]
  exact ⟨_, _, rfl⟩

/-- A pull that the MemoryInterface answers (R68). -/
theorem pull_of_answered {v : Byte} {w : Work} {u : State}
    (h : busRead (stackAddr (w.st.sp + 1)) w.st = (some v, u)) :
    ∃ log wrapped, pull w = .ok (v,
      { st := { u with
          sp := w.st.sp + 1, stackWrapCount := w.st.stackWrapCount + if w.st.sp = 0xFF then 1 else 0 }
        log := log, wrapped := wrapped }) := by
  obtain ⟨calls, rfl⟩ : ∃ calls, u = { w.st with calls := calls } := ⟨_, busRead_state h⟩
  have answered := busRead_with_pc_sp_wraps (stackAddr (w.st.sp + 1)) w.st w.st.pc (w.st.sp + 1)
    (w.st.stackWrapCount + (w.st.sp == 0xFF).toNat)
  rw [h] at answered
  rw [pull_eq, ← toNat_sp_beq]
  exact ⟨_, _, memRead_of_answered answered⟩

/-! ### Instructions with one push or one pull -/

/-- An action that pushes one byte. -/
def pushAct (value : State → Byte) (w : Work) : Except Fault (Nat × Work) := do
  let w ← push (value w.st) w
  pure (0, w)

theorem exec_pha (s : State) : exec .pha s =
    runPlain Instr.pha.opcode Instr.pha.operands (pushAct State.a) s := rfl

theorem exec_php (s : State) : exec .php s =
    runPlain Instr.php.opcode Instr.php.operands (pushAct fun s => packP s.p true) s := rfl

/-- An action that pulls one byte and changes registers by it. -/
def pullAct (act : Byte → State → State) (w : Work) : Except Fault (Nat × Work) := do
  let (v, w) ← pull w
  pure (0, w.mapState (act v))

theorem exec_pla (s : State) : exec .pla s =
    runPlain Instr.pla.opcode Instr.pla.operands (pullAct actLda) s := rfl

theorem exec_plp (s : State) : exec .plp s =
    runPlain Instr.plp.opcode Instr.plp.operands (pullAct fun v s => { s with p := unpackP v s.p }) s := rfl

/-- An instruction with no effective address whose action costs nothing extra takes the table's cycles (R122, R160). -/
theorem exec_plain {i : Instr} {act : Work → Except Fault (Nat × Work)} {s : State} {u : Work}
    (runs : exec i s = runPlain i.opcode i.operands act s) (acts : act (advanced i s (begun i s)) = .ok (0, u)) :
    exec i s = .next (completeStep .instruction s (decodedOf i.opcode i.operands) (table i.opcode).baseCycles u) := by
  have unpaged : pageExtra i false = 0 := if_neg (by simp)
  rw [runs, runPlain_ok acts, cycleCount_zero, unpaged, Nat.add_zero]

/-- An instruction that pushes one byte, where the MemoryInterface accepts the write. What it pushes must not depend on
PC, which the engine has moved by then. -/
theorem exec_push_frame {i : Instr} {value : State → Byte} {s u : State}
    (runs : exec i s = runPlain i.opcode i.operands (pushAct value) s)
    (pcFree : ∀ pc, value { s with pc := pc } = value s)
    (h : busWrite (stackAddr s.sp) (value s) s = (true, u)) :
    ∃ t, exec i s = .next t ∧ (∀ a, t.peek a = afterStore s (stackAddr s.sp) (value s) a) ∧
      t.sp = s.sp - 1 ∧ t.stackWrapCount = s.stackWrapCount + (if s.sp = 0 then 1 else 0) ∧
      t.p = s.p ∧ IndexAndAccumulatorKept s t ∧ FallsThrough i 0 s t := by
  obtain ⟨kept, stored⟩ := busWrite_updates h
  have accepted := busWrite_with_pc (stackAddr s.sp) (value s) s (nextPc i s)
  rw [h, kept, ← begun_advanced] at accepted
  obtain ⟨log, wrapped, pushed⟩ := push_of_accepted accepted
  have acts : pushAct value (advanced i s (begun i s)) = .ok (0,
      { st := { s with
          pc := nextPc i s, sp := s.sp - 1, stackWrapCount := s.stackWrapCount + if s.sp = 0 then 1 else 0
          mem := u.mem, calls := u.calls }
        log := log, wrapped := wrapped }) := by
    rw [pushAct, begun_advanced, pcFree, pushed]
    rfl
  exact ⟨_, exec_plain runs acts, stored, rfl, rfl, rfl, ⟨rfl, rfl, rfl⟩,
    fallsThrough_completeStep ⟨⟨rfl, rfl, rfl, rfl, rfl, rfl, rfl⟩, rfl, rfl, rfl, rfl⟩ rfl⟩

/-- Where the MemoryInterface answers its pull, an instruction that pulls one byte acts on the registers by that byte,
with PC, SP and the wrap counter moved. -/
theorem exec_pull {i : Instr} {act : Byte → State → State} {s u : State} {v : Byte}
    (runs : exec i s = runPlain i.opcode i.operands (pullAct act) s)
    (h : busRead (stackAddr (s.sp + 1)) s = (some v, u)) :
    ∃ log wrapped, exec i s =
      .next (completeStep .instruction s (decodedOf i.opcode i.operands) (table i.opcode).baseCycles
        { st := act v { s with
            pc := nextPc i s, sp := s.sp + 1, stackWrapCount := s.stackWrapCount + if s.sp = 0xFF then 1 else 0
            calls := u.calls }
          log := log, wrapped := wrapped }) := by
  have answered : busRead (stackAddr ((advanced i s (begun i s)).st.sp + 1)) (advanced i s (begun i s)).st =
      (some v, { s with pc := nextPc i s, calls := u.calls }) := by
    have unmoved := busRead_with_pc_sp_wraps (stackAddr (s.sp + 1)) s (nextPc i s) s.sp s.stackWrapCount
    rw [h, busRead_state h] at unmoved
    rw [begun_advanced]
    exact unmoved
  obtain ⟨log, wrapped, pulled⟩ := pull_of_answered answered
  refine ⟨log, wrapped, exec_plain runs ?_⟩
  rw [pullAct, pulled]
  rfl

/-! ### The statements -/

/-- Settles O21: PHA and PHP are one push, of A and of the status byte. -/
theorem pushInstructionsStoreOneByte : Obligations.PushInstructionsStoreOneByte := by
  intro i s u v pushes h
  rcases pushes with rfl | rfl
  · exact exec_push_frame (exec_pha s) (fun _ => rfl) h
  · exact exec_push_frame (exec_php s) (fun _ => rfl) h

/-- Settles O22: PLA and PLP are one pull; LDA's action takes its byte to A, and `unpackP` to the flags. -/
theorem pullInstructionsLoadOneByte : Obligations.PullInstructionsLoadOneByte := by
  intro i s u v pulls h
  rcases pulls with rfl | rfl
  · obtain ⟨log, wrapped, ran⟩ := exec_pull (exec_pla s) h
    exact ⟨_, ran, rfl, rfl, rfl, rfl, rfl, rfl, fun _ => rfl,
      fallsThrough_completeStep ⟨⟨rfl, rfl, rfl, rfl, rfl, rfl, rfl⟩, rfl, rfl, rfl, rfl⟩ rfl⟩
  · obtain ⟨log, wrapped, ran⟩ := exec_pull (exec_plp s) h
    exact ⟨_, ran, rfl, rfl, rfl, rfl, rfl, rfl, fun _ => rfl,
      fallsThrough_completeStep ⟨⟨rfl, rfl, rfl, rfl, rfl, rfl, rfl⟩, rfl, rfl, rfl, rfl⟩ rfl⟩

end Sys2Proof.Machine
end

section
/-! The arithmetic and compare family (spec/43_arithmetic_compare.md): the binary and the decimal paths as arithmetic on
numbers, and what ADC, SBC and the compares make of the state in the frame of the read class. -/

namespace Sys2Proof.Machine

/-! ### Bytes as numbers -/

/-- N of a result (R200). -/
theorem getLsbD_seven (b : Byte) : b.getLsbD 7 = decide (b.toNat ≥ 128) :=
  (BitVec.msb_eq_getLsbD_last b).symm.trans (BitVec.msb_eq_decide b)

/-- The two's-complement value of a byte (R10). -/
theorem toInt_byte (b : Byte) : b.toInt = if b.toNat < 128 then (b.toNat : Int) else b.toNat - 256 := by
  rw [BitVec.toInt_eq_toNat_cond]
  split <;> split <;> omega

theorem toNat_xor_FF (b : Byte) : (b ^^^ 0xFF).toNat = 255 - b.toNat := by
  have complement : b ^^^ 0xFF = ~~~b := BitVec.xor_allOnes
  rw [complement, BitVec.toNat_not]

theorem and_80_ne_zero (b : Byte) : ((b &&& 0x80) != 0) = b.getLsbD 7 := by
  have single : (0x80 : Byte) = BitVec.twoPow 8 7 := rfl
  rw [single, BitVec.and_twoPow]
  cases b.getLsbD 7 <;> rfl

theorem lowNibble_eq (b : Byte) : lowNibble b = b.toNat % 16 :=
  (BitVec.toNat_and b 0x0F).trans (Nat.and_two_pow_sub_one_eq_mod b.toNat 4)

theorem highPart_toNat (b : Byte) : (highPart b).toNat = b.toNat / 16 * 16 := by
  have shifted : highPart b = b >>> 4 <<< 4 := (BitVec.shiftLeft_ushiftRight (x := b) (n := 4)).symm
  rw [shifted, BitVec.toNat_shiftLeft, BitVec.toNat_ushiftRight, Nat.shiftLeft_eq, Nat.shiftRight_eq_div_pow]
  omega

theorem sext8_highPart (b : Byte) : sext8 (highPart b) = b.toInt / 16 * 16 := by
  rw [sext8, toInt_byte, toInt_byte, highPart_toNat]
  split <;> split <;> omega

/-! ### Binary addition and subtraction (R251, R254) -/

theorem addBin_toNat (a m : Byte) (c : Bool) : (addBin a m c).r.toNat = (a.toNat + m.toNat + c.toNat) % 256 :=
  BitVec.toNat_ofNat _ _

/-- V by the signs of the operands and of the result is V by the signed sum. -/
theorem addBin_v (a m : Byte) (c : Bool) :
    (addBin a m c).v = decide (a.toInt + m.toInt + c.toNat < -128 ∨ a.toInt + m.toInt + c.toNat > 127) := by
  have bySigns : (addBin a m c).v =
      ((a.getLsbD 7 ^^ (addBin a m c).r.getLsbD 7) && (m.getLsbD 7 ^^ (addBin a m c).r.getLsbD 7)) := by
    rw [← BitVec.getLsbD_xor, ← BitVec.getLsbD_xor, ← BitVec.getLsbD_and, ← and_80_ne_zero]
    rfl
  have carry := Bool.toNat_le c
  rw [bySigns, getLsbD_seven, getLsbD_seven, getLsbD_seven, addBin_toNat, toInt_byte, toInt_byte, Bool.eq_iff_iff]
  simp only [Bool.and_eq_true, bne_iff_ne, decide_eq_true_eq, ne_eq, decide_eq_decide]
  omega

/-- The borrow a subtraction takes in is a carry of 0. -/
theorem subBin_r (a m : Byte) (c : Bool) : (subBin a m c).r = a - m - BitVec.ofNat 8 (1 - c.toNat) := by
  have carry := Bool.toNat_le c
  apply BitVec.eq_of_toNat_eq
  rw [subBin, addBin_toNat, toNat_xor_FF]
  simp only [BitVec.toNat_sub, BitVec.toNat_ofNat]
  omega

theorem subBin_c (a m : Byte) (c : Bool) : (subBin a m c).c = decide (m.toNat + (1 - c.toNat) ≤ a.toNat) := by
  have carry := Bool.toNat_le c
  show decide (a.toNat + (m ^^^ 0xFF).toNat + c.toNat > 255) = _
  rw [toNat_xor_FF, decide_eq_decide]
  omega

theorem subBin_v (a m : Byte) (c : Bool) :
    (subBin a m c).v = decide (a.toInt - m.toInt - ((1 - c.toNat : Nat) : Int) < -128 ∨
      a.toInt - m.toInt - ((1 - c.toNat : Nat) : Int) > 127) := by
  have carry := Bool.toNat_le c
  have complement : (m ^^^ 0xFF).toInt = -m.toInt - 1 := by
    rw [toInt_byte, toInt_byte, toNat_xor_FF]
    omega
  rw [subBin, addBin_v, complement, decide_eq_decide]
  omega

/-! ### Decimal digits -/

theorem isBcd_iff {b : Byte} : isBcd b = true ↔ b.toNat % 16 ≤ 9 ∧ b.toNat / 16 ≤ 9 := by
  rw [isBcd, Bool.and_eq_true, decide_eq_true_eq, decide_eq_true_eq]

/-! ### Decimal addition (R253) -/

/-- `al` of R253, on numbers. -/
theorem decimalAddLow_eq (a m : Byte) (c : Bool) :
    decimalAddLow a m c =
      if a.toNat % 16 + m.toNat % 16 + c.toNat ≥ 10 then (a.toNat % 16 + m.toNat % 16 + c.toNat + 6) % 16 + 16
      else a.toNat % 16 + m.toNat % 16 + c.toNat := by
  rw [decimalAddLow, lowNibble_eq, lowNibble_eq]

/-- `t` of R253, before the correction of the high digit. -/
def decimalTotal (a m : Byte) (c : Bool) : Nat := a.toNat / 16 * 16 + m.toNat / 16 * 16 + decimalAddLow a m c

theorem adcDecimal_toNat (a m : Byte) (c : Bool) :
    (adcDecimal a m c).r.toNat =
      (if decimalTotal a m c ≥ 0xA0 then decimalTotal a m c + 0x60 else decimalTotal a m c) % 256 := by
  rw [decimalTotal, ← highPart_toNat, ← highPart_toNat]
  exact BitVec.toNat_ofNat _ _

/-- The correction of the high digit carries out exactly where it is made. -/
theorem adcDecimal_c (a m : Byte) (c : Bool) : (adcDecimal a m c).c = decide (decimalTotal a m c ≥ 0xA0) := by
  rw [decimalTotal, ← highPart_toNat, ← highPart_toNat, adcDecimal, decide_eq_decide]
  split <;> omega

/-- N by the signed total is N by the unsigned one: the two differ by a multiple of 256. -/
theorem adcDecimal_n (a m : Byte) (c : Bool) :
    (adcDecimal a m c).n = decide (decimalTotal a m c % 256 ≥ 128) := by
  rw [adcDecimal, getLsbD_seven, BitVec.toNat_ofInt, sext8_highPart, sext8_highPart, toInt_byte, toInt_byte,
    decimalTotal, decide_eq_decide]
  omega

theorem adcDecimal_v (a m : Byte) (c : Bool) :
    (adcDecimal a m c).v =
      decide (a.toInt / 16 * 16 + m.toInt / 16 * 16 + (decimalAddLow a m c : Int) < -128 ∨
        a.toInt / 16 * 16 + m.toInt / 16 * 16 + (decimalAddLow a m c : Int) > 127) := by
  rw [adcDecimal, sext8_highPart, sext8_highPart]

/-- On decimal digits `al` is the low digits' sum: its digit and, in bit 4, its carry. -/
theorem decimalAddLow_bcd {a m : Byte} (c : Bool) (ha : isBcd a = true) (hm : isBcd m = true) :
    decimalAddLow a m c % 16 ≤ 9 ∧
      decimalAddLow a m c / 16 * 10 + decimalAddLow a m c % 16 = a.toNat % 16 + m.toNat % 16 + c.toNat := by
  have carry := Bool.toNat_le c
  rw [isBcd_iff] at ha hm
  rw [decimalAddLow_eq]
  split <;> omega

/-- On decimal digits the two corrections give the decimal sum and its carry. -/
theorem adcDecimal_bcd {a m : Byte} (c : Bool) (ha : isBcd a = true) (hm : isBcd m = true) :
    isBcd (adcDecimal a m c).r = true ∧
      bcdValue (adcDecimal a m c).r + 100 * (adcDecimal a m c).c.toNat = bcdValue a + bcdValue m + c.toNat := by
  have carry := Bool.toNat_le c
  have result := adcDecimal_toNat a m c
  have low := decimalAddLow_bcd c ha hm
  have total : decimalTotal a m c = a.toNat / 16 * 16 + m.toNat / 16 * 16 + decimalAddLow a m c := rfl
  rw [isBcd_iff] at ha hm
  rw [isBcd_iff, bcdValue, bcdValue, bcdValue, adcDecimal_c]
  by_cases corrected : decimalTotal a m c ≥ 0xA0
  · rw [if_pos corrected] at result
    rw [decide_eq_true corrected, Bool.toNat_true]
    omega
  · rw [if_neg corrected] at result
    rw [decide_eq_false corrected, Bool.toNat_false]
    omega

/-! ### Decimal subtraction (R256) -/

/-- `al` of R256, on numbers: the low digits' difference with its decimal correction. -/
def decimalSubLow (a m : Byte) (borrow : Nat) : Int :=
  let low : Int := (a.toNat % 16 : Nat) - (m.toNat % 16 : Nat) - borrow
  if low < 0 then (low - 6) % 16 - 16 else low

/-- `t` of R256, before the correction of the high digit. -/
def decimalDifference (a m : Byte) (borrow : Nat) : Int :=
  (a.toNat / 16 * 16 : Nat) - (m.toNat / 16 * 16 : Nat) + decimalSubLow a m borrow

theorem sbcDecimalResult_toNat (a m : Byte) (c : Bool) :
    ((sbcDecimalResult a m c).toNat : Int) =
      (if decimalDifference a m (1 - c.toNat) < 0 then decimalDifference a m (1 - c.toNat) - 0x60
        else decimalDifference a m (1 - c.toNat)) % 256 := by
  have carry := Bool.toNat_le c
  have borrow : ∀ l : Int, l + c.toNat - 1 = l - (1 - c.toNat : Nat) := by omega
  rw [sbcDecimalResult, lowNibble_eq, lowNibble_eq, highPart_toNat, highPart_toNat, borrow, BitVec.toNat_ofInt,
    Int.toNat_of_nonneg (Int.emod_nonneg _ (by decide))]
  rfl

/-- On decimal digits `t` is the difference in tens, which may be negative, and units. -/
theorem decimalDifference_bcd {a m : Byte} {borrow : Nat} (hb : borrow ≤ 1) (ha : isBcd a = true)
    (hm : isBcd m = true) :
    (-10 ≤ decimalDifference a m borrow / 16 ∧ decimalDifference a m borrow / 16 ≤ 9) ∧
      decimalDifference a m borrow % 16 ≤ 9 ∧
      decimalDifference a m borrow / 16 * 10 + decimalDifference a m borrow % 16 =
        bcdValue a - bcdValue m - borrow := by
  rw [isBcd_iff] at ha hm
  rw [decimalDifference, decimalSubLow, bcdValue, bcdValue]
  split <;> omega

/-- On decimal digits the two corrections give the decimal difference. -/
theorem sbcDecimalResult_bcd {a m : Byte} (c : Bool) (ha : isBcd a = true) (hm : isBcd m = true) :
    isBcd (sbcDecimalResult a m c) = true ∧
      (bcdValue (sbcDecimalResult a m c) : Int) =
        ((bcdValue a : Int) - bcdValue m - (1 - c.toNat : Nat)) % 100 := by
  have result := sbcDecimalResult_toNat a m c
  obtain ⟨tens, units, value⟩ := decimalDifference_bcd (Nat.sub_le 1 c.toNat) ha hm
  rw [isBcd_iff, bcdValue, ← value]
  split at result
  · have wrapped : ((sbcDecimalResult a m c).toNat : Int) = decimalDifference a m (1 - c.toNat) + 160 := by omega
    omega
  · have unchanged : ((sbcDecimalResult a m c).toNat : Int) = decimalDifference a m (1 - c.toNat) := by omega
    omega

/-! ### The actions of ADC, SBC and the compares -/

theorem actAdc_binary {m : Byte} {s : State} (h : s.p.d = false) :
    actAdc m s = setNZ (addBin s.a m s.p.c).r { s with
      a := (addBin s.a m s.p.c).r
      p := { s.p with c := (addBin s.a m s.p.c).c, v := (addBin s.a m s.p.c).v } } :=
  if_neg (by simp [h])

theorem actAdc_decimal {m : Byte} {s : State} (h : s.p.d = true) :
    actAdc m s = { s with
      a := (adcDecimal s.a m s.p.c).r
      p := { s.p with
        n := (adcDecimal s.a m s.p.c).n, v := (adcDecimal s.a m s.p.c).v
        z := (adcDecimal s.a m s.p.c).z, c := (adcDecimal s.a m s.p.c).c } } :=
  if_pos h

theorem compare_p_eq (r m : Byte) (s : State) :
    (compare r m s).p = { s.p with
      c := decide (m.toNat ≤ r.toNat), z := decide (r = m)
      n := decide ((r.toNat + 256 - m.toNat) % 256 ≥ 128) } := by
  have difference : (r - m).toNat = (r.toNat + 256 - m.toNat) % 256 := by
    rw [BitVec.toNat_sub]
    omega
  have equal : (r == m) = decide (r = m) := rfl
  rw [compare_p, getLsbD_seven, difference, equal]

/-! ### The statements -/

/-- Settles O23: the binary path of ADC's action, in the frame of the read class. -/
theorem binaryAdditionSetsCarryAndOverflow : Obligations.BinaryAdditionSetsCarryAndOverflow := by
  intro i f s v crossed w hs ho binary total signed
  obtain ⟨t, ran, a, x, y, p, frame⟩ := exec_read_frame hs ho
  rw [readAction, actAdc_binary binary] at a x y p
  have sum : t.a = (addBin s.a v s.p.c).r := a
  refine ⟨t, ran, sum ▸ addBin_toNat s.a v s.p.c, ?_, x, y, frame⟩
  rw [p, sum, ← addBin_v]
  rfl

/-- Settles O24: the decimal path of ADC's action, in the frame of the read class. -/
theorem decimalAdditionAddsDigits : Obligations.DecimalAdditionAddsDigits := by
  intro i f s v crossed w hs ho decimal low digit total signed
  have digit_eq : digit = decimalAddLow s.a v s.p.c := (decimalAddLow_eq s.a v s.p.c).symm
  have total_eq : total = decimalTotal s.a v s.p.c := congrArg (s.a.toNat / 16 * 16 + v.toNat / 16 * 16 + ·) digit_eq
  obtain ⟨t, ran, a, x, y, p, frame⟩ := exec_read_frame hs ho
  rw [readAction, actAdc_decimal decimal] at a x y p
  have sum : t.a = (adcDecimal s.a v s.p.c).r := a
  have carry : t.p.c = (adcDecimal s.a v s.p.c).c := congrArg Flags.c p
  refine ⟨t, ran, ?_, ?_, ?_, x, y, frame⟩
  · rw [sum, total_eq, adcDecimal_toNat]
  · rw [p, total_eq, ← adcDecimal_n, ← adcDecimal_c, adcDecimal_v, ← digit_eq]
    rfl
  · rw [sum, carry]
    exact adcDecimal_bcd s.p.c

/-- Settles O25: SBC's action, whose flags are the binary difference's in both modes. -/
theorem subtractionBorrowsAndOverflows : Obligations.SubtractionBorrowsAndOverflows := by
  intro i f s v crossed w hs ho borrow r signed low digit total
  obtain ⟨t, ran, a, x, y, p, frame⟩ := exec_read_frame hs ho
  have result : t.a = if s.p.d then sbcDecimalResult s.a v s.p.c else (subBin s.a v s.p.c).r := a
  have digits : s.p.d = true → t.a = sbcDecimalResult s.a v s.p.c := fun decimal => result.trans (if_pos decimal)
  refine ⟨t, ran, ?_, ?_, ?_, ?_, x, y, frame⟩
  · have difference : r = (subBin s.a v s.p.c).r := (subBin_r s.a v s.p.c).symm
    rw [p, difference, ← subBin_c, ← subBin_v]
    rfl
  · intro binary
    rw [result, binary]
    exact subBin_r s.a v s.p.c
  · intro decimal
    rw [digits decimal]
    exact sbcDecimalResult_toNat s.a v s.p.c
  · intro decimal
    rw [digits decimal]
    exact sbcDecimalResult_bcd s.p.c

/-- Settles O26: the three compares are one comparison, with A, X or Y. -/
theorem comparesWriteThreeFlags : Obligations.ComparesWriteThreeFlags := by
  intro i op f s m crossed w hs ho compares r
  obtain ⟨t, ran, a, x, y, p, frame⟩ := exec_read_frame hs ho
  rcases compares with rfl | rfl | rfl <;> exact ⟨t, ran, p.trans (compare_p_eq _ m s), ⟨a, x, y⟩, frame⟩

end Sys2Proof.Machine
end

section
/-! The increment and decrement family (spec/44_incdec.md): the step modulo 256 on numbers, and what an instruction of
the read-modify-write class leaves, said once for the class. -/

namespace Sys2Proof.Machine

/-! ### One step up and one step down (R280) -/

theorem add_one_eq_ofNat (v : Byte) : v + 1 = BitVec.ofNat 8 ((v.toNat + 1) % 256) := by
  apply BitVec.eq_of_toNat_eq
  rw [BitVec.toNat_add, BitVec.toNat_ofNat, Nat.mod_mod]
  rfl

theorem sub_one_eq_ofNat (v : Byte) : v - 1 = BitVec.ofNat 8 ((v.toNat + 255) % 256) := by
  apply BitVec.eq_of_toNat_eq
  rw [BitVec.toNat_sub, BitVec.toNat_ofNat, Nat.mod_mod, Nat.add_comm]
  rfl

/-! ### The read-modify-write class -/

/-- The flags a read-modify-write instruction writes are not part of what a step's work holds. -/
theorem Held.setNZ_setC {s t : State} (h : Held s t) (r : Byte) (c : Bool) : Held s (setNZ r (setC c t)) :=
  ⟨{ h.system with }, h.cycles, h.instructions, h.lastStep, h.b⟩

/-- A memory form of a read-modify-write instruction, where the MemoryInterface answers the read and accepts the write:
its action decides the byte stored and the carry, and the rest is the same for the whole class (R153, R160, R161). -/
theorem exec_modify_frame {i : Instr} {op : ModifyOp} {f : EaForm} {s : State} {ea : Word} {v : Byte} {crossed : Bool}
    {w u x : Work} (hs : shapeOf i = .modify op f) (ho : resolve f (begun i s) = .ok (ea, crossed, w))
    (hr : memRead .read ea (advanced i s w) = .ok (v, u))
    (hw : memWrite .write ea (modifyAction op v s).1 u = .ok x) :
    ∃ t, exec i s = .next t ∧ (∀ a, t.peek a = afterStore s ea (modifyAction op v s).1 a) ∧
      t.p = { withNZ s.p (modifyAction op v s).1 with c := (modifyAction op v s).2.p.c } ∧
      IndexAndAccumulatorKept s t ∧ FallsThrough i 0 s t ∧ StackKept s t := by
  have ran := exec_modify hs ho hr hw
  have free : pageExtra i crossed = 0 := pageExtra_eq_zero crossed (by simp [hs]) (by simp [hs])
  rw [cycleCount_zero, free, ite_poke_eq] at ran
  exact ⟨_, ran, peek_accepted s ea _, rfl, ⟨rfl, rfl, rfl⟩,
    fallsThrough_completeStep (((Held.refl s).with_mem_pc_calls _ _ _).setNZ_setC _ _) rfl, ⟨rfl, rfl⟩⟩

/-! ### The statements -/

/-- Settles O30: INC and DEC step the byte and leave the carry, in the frame of the read-modify-write class. -/
theorem memoryStepsWrap : Obligations.MemoryStepsWrap := by
  intro i op f s ea v crossed w u x r hs steps ho hr hw
  have stepped : (modifyAction op v s).1 = r := by
    rcases steps with rfl | rfl
    · exact add_one_eq_ofNat v
    · exact sub_one_eq_ofNat v
  have carry : (modifyAction op v s).2.p.c = s.p.c := by rcases steps with rfl | rfl <;> rfl
  rw [← stepped] at hw
  have frame := exec_modify_frame hs ho hr hw
  rw [stepped, carry] at frame
  exact frame

/-- Settles O29: each is a register-only instruction, whose action steps its register. -/
theorem registerStepsWrap : Obligations.RegisterStepsWrap := by
  intro s next up down
  have runs : ∀ {i : Instr} {op : InherentOp}, shapeOf i = .inherent op → next i (inherentAction op s) :=
    exec_inherent_next s
  have up_eq : ∀ v, up v = v + 1 := fun v => (add_one_eq_ofNat v).symm
  have down_eq : ∀ v, down v = v - 1 := fun v => (sub_one_eq_ofNat v).symm
  rw [up_eq, up_eq, down_eq, down_eq]
  exact ⟨runs (i := .inx) rfl, runs (i := .iny) rfl, runs (i := .dex) rfl, runs (i := .dey) rfl⟩

end Sys2Proof.Machine
end

section
/-! The logical and shift family (spec/45_logical_shift.md): the logical operations bit by bit, the shifts and rotates as
arithmetic on numbers, and what an accumulator form leaves, said once for its class. -/

namespace Sys2Proof.Machine

/-! ### The read class: AND, ORA, EOR and BIT (R300 to R304) -/

/-- BIT has two forms, zero-page and absolute (R304). -/
theorem opcode_bit {i : Instr} {f : ReadForm} (hs : shapeOf i = .read .bit f) : i.opcode = 0x24 ∨ i.opcode = 0x2C := by
  cases i <;> cases hs
  case bitZp => exact .inl rfl
  case bitAbs => exact .inr rfl

/-- Neither form of BIT pays for a page crossing (R304). -/
theorem pageExtra_bit {i : Instr} {f : ReadForm} (crossed : Bool) (hs : shapeOf i = .read .bit f) :
    pageExtra i crossed = 0 := by
  have unpaged : (table i.opcode).penalty = .none := by
    rcases opcode_bit hs with opcode | opcode <;> rw [opcode] <;> decide
  exact if_neg (by simp [unpaged])

/-- Settles O27: the actions of AND, ORA and EOR, in the frame of the read class. -/
theorem logicalOperationsAreBitwise : Obligations.LogicalOperationsAreBitwise := by
  intro i op f s m crossed w hs ho logical
  obtain ⟨t, ran, a, x, y, p, frame⟩ := exec_read_frame hs ho
  have flags : (readAction op m s).p = withNZ s.p (readAction op m s).a := by
    rcases logical with rfl | rfl | rfl <;> rfl
  rw [← a, ← p] at flags
  rcases logical with rfl | rfl | rfl
  · exact ⟨t, ran, fun k _ => a ▸ BitVec.getLsbD_and, flags, x, y, frame⟩
  · exact ⟨t, ran, fun k _ => a ▸ BitVec.getLsbD_or, flags, x, y, frame⟩
  · exact ⟨t, ran, fun k _ => a ▸ BitVec.getLsbD_xor, flags, x, y, frame⟩

/-- Settles O28: BIT's action, in the frame of the read class. -/
theorem bitTestReadsTwoBits : Obligations.BitTestReadsTwoBits := by
  intro i f s m crossed w hs ho
  obtain ⟨t, ran, a, x, y, p, frame⟩ := exec_read_frame hs ho
  rw [pageExtra_bit crossed hs] at frame
  exact ⟨t, ran, p, ⟨a, x, y⟩, frame⟩

/-! ### The shifts and rotates as arithmetic (R306 to R309) -/

/-- The carry as a rotate takes it in. -/
theorem toNat_carry (c : Bool) : ((BitVec.ofBool c).setWidth 8).toNat = c.toNat := by cases c <;> rfl

theorem shiftAsl_toNat (v : Byte) (s : State) : (shiftAsl v s).1.toNat = v.toNat * 2 % 256 := by
  rw [shiftAsl, BitVec.toNat_shiftLeft, Nat.shiftLeft_eq]

theorem shiftLsr_toNat (v : Byte) (s : State) : (shiftLsr v s).1.toNat = v.toNat / 2 := by
  rw [shiftLsr, BitVec.toNat_ushiftRight, Nat.shiftRight_eq_div_pow]

/-- The carry enters in bit 0, which the shift has cleared, so the two are added. -/
theorem shiftRol_toNat (v : Byte) (s : State) :
    (shiftRol v s).1.toNat = (v.toNat * 2 + s.p.c.toNat) % 256 := by
  have carry := Bool.toNat_le s.p.c
  have shifted : v.toNat <<< 1 % 2 ^ 8 = (v.toNat % 128) <<< 1 := by
    rw [Nat.shiftLeft_eq, Nat.shiftLeft_eq]
    omega
  rw [shiftRol, BitVec.toNat_or, BitVec.toNat_shiftLeft, toNat_carry, shifted,
    ← Nat.shiftLeft_add_eq_or_of_lt (by omega), Nat.shiftLeft_eq]
  omega

/-- The carry enters in bit 7, which the shift has cleared, so the two are added. -/
theorem shiftRor_toNat (v : Byte) (s : State) :
    (shiftRor v s).1.toNat = v.toNat / 2 + 128 * s.p.c.toNat := by
  have carry := Bool.toNat_le s.p.c
  have entering : s.p.c.toNat <<< 7 % 2 ^ 8 = s.p.c.toNat <<< 7 := by
    rw [Nat.shiftLeft_eq]
    omega
  rw [shiftRor, BitVec.toNat_or, BitVec.toNat_ushiftRight, BitVec.toNat_shiftLeft, toNat_carry, entering, Nat.or_comm,
    Nat.shiftRight_eq_div_pow, ← Nat.shiftLeft_add_eq_or_of_lt (by omega), Nat.shiftLeft_eq]
  omega

/-- Where an operation is no step of INC or DEC, it is one of the four shifts. -/
theorem ModifyOp.shift_cases {op : ModifyOp} (h : op ≠ .inc ∧ op ≠ .dec) :
    op = .asl ∨ op = .lsr ∨ op = .rol ∨ op = .ror := by
  cases op <;> simp_all

/-- C is the bit shifted out (R305). -/
theorem modifyAction_carry {op : ModifyOp} (h : op ≠ .inc ∧ op ≠ .dec) (v : Byte) (s : State) :
    (modifyAction op v s).2.p.c = if op = .asl ∨ op = .rol then v.getLsbD 7 else v.getLsbD 0 := by
  rcases ModifyOp.shift_cases h with rfl | rfl | rfl | rfl <;> rfl

/-! ### The accumulator class (R305) -/

/-- Only the shifts and rotates have an accumulator form. -/
theorem accumulator_shifts {i : Instr} {op : ModifyOp} (hs : shapeOf i = .accumulator op) : op ≠ .inc ∧ op ≠ .dec := by
  cases i <;> cases hs <;> decide

/-- The accumulator form's effect as one update, after PC has moved. -/
theorem modifyA_with_pc (op : ModifyOp) (s : State) (pc : Word) :
    modifyA (modifyAction op) { s with pc := pc } =
      setNZ (modifyAction op s.a s).1 (setC (modifyAction op s.a s).2.p.c
        { s with pc := pc, a := (modifyAction op s.a s).1 }) := by
  cases op <;> rfl

/-- An accumulator form: its action decides A and the carry, and the rest is the same for the whole class (R160). -/
theorem exec_accumulator_frame {i : Instr} {op : ModifyOp} (s : State) (hs : shapeOf i = .accumulator op) :
    ∃ t, exec i s = .next t ∧ t.a = (modifyAction op s.a s).1 ∧
      t.p = { withNZ s.p t.a with c := (modifyAction op s.a s).2.p.c } ∧
      t.x = s.x ∧ t.y = s.y ∧ FallsThrough i 0 s t ∧ StackKept s t ∧ MemoryKept s t := by
  have ran := exec_accumulator s hs
  have free : pageExtra i false = 0 := if_neg (by simp)
  rw [cycleCount_zero, free, Work.mapState, begun_advanced, modifyA_with_pc] at ran
  exact ⟨_, ran, rfl, rfl, rfl, rfl,
    fallsThrough_completeStep ⟨⟨rfl, rfl, rfl, rfl, rfl, rfl, rfl⟩, rfl, rfl, rfl, rfl⟩ rfl, ⟨rfl, rfl⟩, fun _ => rfl⟩

/-! ### The statements on shifts -/

/-- Settles O31: the four shifts on numbers, in the frame of the read-modify-write class. -/
theorem memoryShiftsReplaceTheByte : Obligations.MemoryShiftsReplaceTheByte := by
  intro i op f s ea v crossed w u x r hs shifts ho hr hw
  have shifted : (modifyAction op v s).1 = r := by
    apply BitVec.eq_of_toNat_eq
    rw [BitVec.toNat_ofNat, Nat.mod_mod]
    rcases ModifyOp.shift_cases shifts with rfl | rfl | rfl | rfl
    · exact shiftAsl_toNat v s
    · exact (shiftLsr_toNat v s).trans (Nat.mod_eq_of_lt (shiftLsr_toNat v s ▸ BitVec.isLt _)).symm
    · exact shiftRol_toNat v s
    · exact (shiftRor_toNat v s).trans (Nat.mod_eq_of_lt (shiftRor_toNat v s ▸ BitVec.isLt _)).symm
  rw [← shifted] at hw
  have frame := exec_modify_frame hs ho hr hw
  rw [shifted, modifyAction_carry shifts] at frame
  exact frame

/-- Settles O32: the four shifts on numbers, in the frame of the accumulator class. -/
theorem accumulatorShiftsReplaceA : Obligations.AccumulatorShiftsReplaceA := by
  intro i op s hs
  obtain ⟨t, ran, a, p, frame⟩ := exec_accumulator_frame s hs
  rw [modifyAction_carry (accumulator_shifts hs)] at p
  refine ⟨t, ran, ?_, ?_, ?_, ?_, p, frame⟩ <;> rintro rfl <;> rw [a]
  · exact shiftAsl_toNat s.a s
  · exact shiftLsr_toNat s.a s
  · exact shiftRol_toNat s.a s
  · exact shiftRor_toNat s.a s

end Sys2Proof.Machine
end

section
/-! The control family (spec/46_control.md): the frame of an instruction whose action moves PC itself, and the state
that the action of each branch, jump, call and return makes in it, the stack being plain RAM. -/

namespace Sys2Proof.Machine

/-! ### The frame of an instruction that moves PC itself -/

/-- Registers, flags other than the stored B, memory and the wrap counter are not part of what a step's work holds. -/
theorem held_of_control (s : State) (pc : Word) (sp : Byte) (p : Flags) (wraps : Nat) (mem : List Host.Cell)
    (calls : List BusCall) (b : p.b = s.p.b) :
    Held s { s with pc := pc, sp := sp, p := p, stackWrapCount := wraps, mem := mem, calls := calls } :=
  ⟨⟨rfl, rfl, rfl, rfl, rfl, rfl, rfl⟩, rfl, rfl, rfl, b⟩

/-- An instruction retires, wherever PC went, where its work left what every step's work holds. -/
theorem retired_completeStep {i : Instr} {extra : Nat} {s : State} {d : Decoded} {w : Work} (held : Held s w.st) :
    Retired i extra s (completeStep .instruction s d ((table i.opcode).baseCycles + extra) w) where
  cycles := congrArg (· + ((table i.opcode).baseCycles + extra)) held.cycles
  returned := rfl
  instructions := congrArg (· + 1) held.instructions

/-- An instruction with no effective address, whose action costs nothing extra, retires in the state its action
makes. -/
theorem exec_plain_retires {i : Instr} {act : Work → Except Fault (Nat × Work)} {s : State} {u : Work}
    (runs : exec i s = runPlain i.opcode i.operands act s) (acts : act (advanced i s (begun i s)) = .ok (0, u))
    (held : Held s u.st) :
    let t := completeStep .instruction s (decodedOf i.opcode i.operands) (table i.opcode).baseCycles u
    exec i s = .next t ∧ Retired i 0 s t ∧ SystemKept s t :=
  ⟨exec_plain runs acts, retired_completeStep held, { held.system with }⟩

/-! ### Branches (R341 to R349) -/

theorem samePage_eq_decide (a b : Word) : samePage a b = decide (a.toNat / 256 = b.toNat / 256) := by
  rw [samePage, Bool.eq_iff_iff, beq_iff_eq, decide_eq_true_iff, ← hi8_toNat, ← hi8_toNat, BitVec.toNat_inj]

/-- The target is the next address plus the signed offset, modulo 65536 (R341). -/
theorem branchTarget_toNat (next : Word) (offset : Byte) :
    ((branchTarget next offset).toNat : Int) = ((next.toNat : Int) + offset.toInt) % 65536 := by
  rw [branchTarget, sext16, BitVec.signExtend, BitVec.toNat_add, BitVec.toNat_ofInt]
  omega

/-- The extra cycles of a taken branch (R162). -/
def branchExtra (next target : Word) : Nat := if target.toNat / 256 = next.toNat / 256 then 1 else 2

theorem branch_not_taken (offset : Byte) (w : Work) : branch false offset w = (0, w) := rfl

theorem branch_taken (offset : Byte) (w : Work) : branch true offset w =
    (branchExtra w.st.pc (branchTarget w.st.pc offset),
      w.mapState fun s => { s with pc := branchTarget w.st.pc offset }) := by
  simp only [branch, samePage_eq_decide, decide_eq_true_eq, if_true]
  rfl

/-- Where no page is crossed, the extra cycles are the action's alone. -/
theorem cycleCount_not_crossed (d : Entry) (extra : Nat) : cycleCount d extra false = d.baseCycles + extra := by
  simp [cycleCount]

/-- Settles O33: either way the action moves PC alone, from the address after the two bytes of the branch. -/
theorem branchesTestOneFlag : Obligations.BranchesTestOneFlag := by
  intro i op b1 s hs taken next
  have condition : branchCondition op s.p = taken := by cases op <;> rfl
  have pc : nextPc i s = next := by rw [nextPc, (branch_entry i op b1 hs).1]; rfl
  have ran := exec_branch s hs
  rw [cycleCount_not_crossed, condition] at ran
  clear_value taken
  cases taken with
  | false =>
    rw [branch_not_taken] at ran
    have held : Held s (advanced i s (begun i s)).st := (Held.refl s).with_mem_pc_calls _ _ _
    exact ⟨_, ran, fun _ => ⟨pc, retired_completeStep held⟩, nofun, rfl, ⟨rfl, rfl, rfl⟩, ⟨rfl, rfl⟩, fun _ => rfl,
      { held.system with }⟩
  | true =>
    rw [branch_taken, begun_advanced, pc] at ran
    have held : Held s { s with pc := branchTarget next b1 } := (Held.refl s).with_mem_pc_calls _ _ _
    exact ⟨_, ran, nofun, fun _ => ⟨branchTarget_toNat next b1, retired_completeStep held⟩, rfl, ⟨rfl, rfl, rfl⟩,
      ⟨rfl, rfl⟩, fun _ => rfl, { held.system with }⟩

/-! ### JMP (R350) -/

/-- Settles O34: resolving the address changes nothing but what the collaborator has seen, and the action moves PC. -/
theorem jumpsSetThePc : Obligations.JumpsSetThePc := by
  intro i f s ea crossed w hs ho
  have free : pageExtra i crossed = 0 := pageExtra_eq_zero crossed (by simp [hs]) (by simp [hs])
  have ran := exec_jmp hs ho
  rw [cycleCount_zero, free, Work.mapState, (resolve_advanced ho).1] at ran
  have held : Held s { s with pc := ea, calls := w.st.calls } := (Held.refl s).with_mem_pc_calls _ _ _
  exact ⟨_, ran, rfl, retired_completeStep held, rfl, ⟨rfl, rfl, rfl⟩, ⟨rfl, rfl⟩, fun _ => rfl, { held.system with }⟩

/-! ### JSR and RTS (R351, R352) -/

/-- JSR's absolute address needs no resolving, so it runs as an instruction with two operand bytes. -/
theorem exec_jsr (b1 b2 : Byte) (s : State) : exec (.jsr b1 b2) s =
    runPlain (Instr.jsr b1 b2).opcode (Instr.jsr b1 b2).operands (actJsr (word b2 b1)) s := rfl

theorem exec_rts (s : State) : exec .rts s = runPlain Instr.rts.opcode Instr.rts.operands actRts s := rfl

/-- The work JSR's action leaves on a stack of plain RAM. -/
theorem actJsr_ram (ea : Word) (w : Work) (ram : StackIsRam w.st.cfg) : ∃ log wrapped, actJsr ea w = .ok (0,
    ⟨{ w.st with
        pc := ea, sp := w.st.sp - 2, stackWrapCount := w.st.stackWrapCount + if w.st.sp.toNat < 2 then 1 else 0
        mem := ((w.st.poke (stackAddr w.st.sp) (hi8 (w.st.pc - 1))).poke
          (stackAddr (w.st.sp - 1)) (lo8 (w.st.pc - 1))).mem }, log, wrapped⟩) := by
  rw [actJsr, pushWord_ram _ _ ram]
  exact ⟨_, _, rfl⟩

/-- The work RTS's action leaves on a stack of plain RAM. -/
theorem actRts_ram (w : Work) (ram : StackIsRam w.st.cfg) : ∃ log wrapped, actRts w = .ok (0,
    ⟨{ w.st with
        pc := word (w.st.peek (stackAddr (w.st.sp + 2))) (w.st.peek (stackAddr (w.st.sp + 1))) + 1
        sp := w.st.sp + 2, stackWrapCount := w.st.stackWrapCount + if w.st.sp.toNat ≥ 254 then 1 else 0 },
      log, wrapped⟩) := by
  rw [actRts, pullWord_ram _ ram]
  exact ⟨_, _, rfl⟩

/-- The address of JSR's last byte, from where PC stands when its action begins. -/
theorem nextPc_jsr_sub_one (b1 b2 : Byte) (s : State) : nextPc (.jsr b1 b2) s - 1 = s.pc + 2 := by
  have next : nextPc (.jsr b1 b2) s = s.pc + 3 := congrArg (pcAfter s.pc) (rfl : (table 0x20).length = 3)
  rw [next]
  bv_omega

/-- Settles O35: the action pushes the address before the one PC stands at. -/
theorem jsrPushesItsLastAddress : Obligations.JsrPushesItsLastAddress := by
  intro b1 b2 s ram pushed
  obtain ⟨log, wrapped, acts⟩ := actJsr_ram (word b2 b1) (advanced (.jsr b1 b2) s (begun (.jsr b1 b2) s)) ram
  rw [begun_advanced, nextPc_jsr_sub_one] at acts
  obtain ⟨ran, retired, system⟩ := exec_plain_retires (exec_jsr b1 b2 s) acts (held_of_control s _ _ _ _ _ _ rfl)
  refine ⟨_, ran, word_toNat b2 b1, rfl, fun a => ?_, rfl, retired, rfl, ⟨rfl, rfl, rfl⟩, system⟩
  show ((s.poke _ _).poke _ _).peek a = _
  rw [State.peek_poke, State.peek_poke]

/-- Settles O36: the action is one pull of a word. -/
theorem rtsContinuesAfterThePulledAddress : Obligations.RtsContinuesAfterThePulledAddress := by
  intro s ram
  obtain ⟨log, wrapped, acts⟩ := actRts_ram (advanced .rts s (begun .rts s)) ram
  rw [begun_advanced] at acts
  obtain ⟨ran, retired, system⟩ := exec_plain_retires (exec_rts s) acts (held_of_control s _ _ _ _ _ _ rfl)
  exact ⟨_, ran, rfl, rfl, rfl, retired, rfl, ⟨rfl, rfl, rfl⟩, fun _ => rfl, system⟩

/-- Settles O51: RTS pulls the two bytes JSR pushed, the address of JSR's last byte. -/
theorem rtsReturnsAfterTheJsr : Obligations.RtsReturnsAfterTheJsr := by
  intro b1 b2 s t ram called
  obtain ⟨t', ran, -, sp, bytes, -, -, p, ⟨a, x, y⟩, system⟩ := jsrPushesItsLastAddress b1 b2 s ram
  obtain rfl : t' = t := by rw [called] at ran; injection ran with same; exact same.symm
  have ramAfter : StackIsRam t'.cfg := system.cfg ▸ ram
  obtain ⟨u, returned, pc, spBack, -, -, p', ⟨a', x', y'⟩, -⟩ := rtsContinuesAfterThePulledAddress t' ramAfter
  have high : t'.sp + 2 = s.sp := by rw [sp]; bv_omega
  have low : t'.sp + 1 = s.sp - 1 := by rw [sp]; bv_omega
  have hi : t'.peek (stackAddr s.sp) = hi8 (s.pc + 2) := (bytes _).trans (afterPushWord_high s _)
  have lo : t'.peek (stackAddr (s.sp - 1)) = lo8 (s.pc + 2) := (bytes _).trans (afterPushWord_low s _)
  rw [high, low, hi, lo, word_hi8_lo8, BitVec.add_assoc] at pc
  exact ⟨u, returned, pc, spBack.trans high, p'.trans p, a'.trans a, x'.trans x, y'.trans y⟩

/-! ### BRK and RTI (R353, R354) -/

theorem exec_brk (signature : Byte) (s : State) : exec (.brk signature) s =
    runPlain (Instr.brk signature).opcode (Instr.brk signature).operands actBrk s := rfl

theorem exec_rti (s : State) : exec .rti s = runPlain Instr.rti.opcode Instr.rti.operands actRti s := rfl

theorem nextPc_brk (signature : Byte) (s : State) : nextPc (.brk signature) s = s.pc + 2 :=
  congrArg (pcAfter s.pc) (rfl : (table 0x00).length = 2)

/-- Settles O37: the action is the interrupt entry, from where PC stands past the signature byte. -/
theorem brkTakesTheEntry : Obligations.BrkTakesTheEntry := by
  intro signature s ram vector
  obtain ⟨u, entered, left, -⟩ := interruptEntry_ram irqVector true
    (advanced (.brk signature) s (begun (.brk signature) s)) ram vector (by decide)
  rw [begun_advanced, nextPc_brk] at left
  have acts : actBrk (advanced (.brk signature) s (begun (.brk signature) s)) = .ok (0, u) := by
    rw [actBrk, entered]
    rfl
  obtain ⟨st, log, wrapped⟩ := u
  subst left
  obtain ⟨ran, retired, system⟩ := exec_plain_retires (exec_brk signature s) acts (held_of_control s _ _ _ _ _ _ rfl)
  exact ⟨_, ran, rfl, rfl, peek_afterEntry s (s.pc + 2) (packP s.p true), rfl, rfl, retired, ⟨rfl, rfl, rfl⟩, system⟩

/-- The wraps of a pull and of the pull of a word after it. -/
theorem wraps_of_three_pulls (sp : Byte) :
    (sp == 0xFF).toNat + (if (sp + 1).toNat ≥ 254 then 1 else 0) = if sp.toNat ≥ 253 then 1 else 0 := by
  have next : (sp + 1).toNat = (sp.toNat + 1) % 256 := BitVec.toNat_add sp 1
  rw [toNat_sp_beq, next]
  by_cases top : sp = 0xFF
  · subst top
    rfl
  · have below : sp.toNat + 1 < 256 := by bv_omega
    have same : sp.toNat + 1 ≥ 254 ↔ sp.toNat ≥ 253 := by omega
    simp only [Nat.mod_eq_of_lt below, same, if_neg top, Nat.zero_add]

/-- The work RTI's action leaves on a stack of plain RAM. -/
theorem actRti_ram (w : Work) (ram : StackIsRam w.st.cfg) : ∃ log wrapped, actRti w = .ok (0,
    ⟨{ w.st with
        p := unpackP (w.st.peek (stackAddr (w.st.sp + 1))) w.st.p
        pc := word (w.st.peek (stackAddr (w.st.sp + 3))) (w.st.peek (stackAddr (w.st.sp + 2)))
        sp := w.st.sp + 3, stackWrapCount := w.st.stackWrapCount + if w.st.sp.toNat ≥ 253 then 1 else 0 },
      log, wrapped⟩) := by
  have third : w.st.sp + 1 + 2 = w.st.sp + 3 := by bv_omega
  have second : w.st.sp + 1 + 1 = w.st.sp + 2 := by bv_omega
  rw [actRti, interruptReturn, pull_ram w ram]
  show ∃ log wrapped, ((pullWord _ >>= _) >>= _) = _
  rw [pullWord_ram _ (by exact ram), ← wraps_of_three_pulls, ← Nat.add_assoc, ← third, ← second]
  exact ⟨_, _, rfl⟩

/-- Settles O38: the action pulls the status byte and then a word, and `unpackP` keeps the stored B. -/
theorem rtiRestoresStatusAndPc : Obligations.RtiRestoresStatusAndPc := by
  intro s ram v
  obtain ⟨log, wrapped, acts⟩ := actRti_ram (advanced .rti s (begun .rti s)) ram
  rw [begun_advanced] at acts
  obtain ⟨ran, retired, system⟩ := exec_plain_retires (exec_rti s) acts (held_of_control s _ _ _ _ _ _ rfl)
  exact ⟨_, ran, rfl, rfl, rfl, rfl, retired, ⟨rfl, rfl, rfl⟩, fun _ => rfl, system⟩

end Sys2Proof.Machine
end

section
/-! The flag family (spec/47_flags_nop.md): an instruction whose action is an update of the flags alone. -/

namespace Sys2Proof.Machine

/-- The whole state a register-only instruction leaves, but for its record, where its action writes flags alone. -/
theorem exec_inherent_flags {i : Instr} {op : InherentOp} {s : State} {p : Flags} (hs : shapeOf i = .inherent op)
    (acts : inherentAction op s = { s with p := p }) :
    ∃ r, exec i s = .next { s with
      p := p, pc := s.pc + 1, cycles := s.cycles + 2, instructions := s.instructions + 1, lastStep := some r } := by
  obtain ⟨r, ran⟩ := exec_inherent_next s hs
  rw [acts] at ran
  exact ⟨r, ran⟩

/-- Settles O39: each is a register-only instruction, whose action updates the flags as its rule says. -/
theorem flagInstructionsWriteOneFlag : Obligations.FlagInstructionsWriteOneFlag := by
  intro s next
  exact ⟨exec_inherent_flags (op := .clc) rfl rfl, exec_inherent_flags (op := .sec) rfl rfl,
    exec_inherent_flags (op := .cld) rfl rfl, exec_inherent_flags (op := .sed) rfl rfl,
    exec_inherent_flags (op := .cli) rfl rfl, exec_inherent_flags (op := .sei) rfl rfl,
    exec_inherent_flags (op := .clv) rfl rfl, exec_inherent_flags (op := .nop) rfl rfl⟩

end Sys2Proof.Machine
end

section
/-! The undefined opcodes (spec/48_illegal.md): the two outcomes of `exec_undefined`, read off the table's one entry. -/

namespace Sys2Proof.Machine

/-- The 105 bytes of R99 share one entry (R97). -/
theorem table_of_undefined : ∀ opcode ∈ undefinedOpcodes, table opcode = undefinedEntry := by
  decide +kernel

/-- Settles O40: the policy chooses between the halt report and the no-op, and either leaves a record of one fetch. -/
theorem undefinedOpcodesFollowThePolicy : Obligations.UndefinedOpcodesFollowThePolicy := by
  intro opcode s undocumented
  have mnemonic : (decodedOf opcode []).mnemonic = "???" := by
    rw [decodedOf, table_of_undefined opcode undocumented]
    rfl
  rcases exec_undefined opcode s with ⟨policy, ran⟩ | ⟨policy, ran⟩
  · exact ⟨stepRecord .illegalHalt s (decodedOf opcode []) 0 (Work.start s (fetchLog s.pc [opcode])), rfl, rfl, rfl,
      mnemonic, rfl, fun _ => ⟨rfl, rfl, ran⟩, fun other => nomatch policy.symm.trans other⟩
  · exact ⟨stepRecord .instruction s (decodedOf opcode []) 2 (Work.start s (fetchLog s.pc [opcode])), rfl, rfl, rfl,
      mnemonic, rfl, fun other => (nomatch policy.symm.trans other), fun _ => ⟨rfl, rfl, ran⟩⟩

end Sys2Proof.Machine
end

section
/-! The interrupts (spec/60_exceptions.md sections 2 to 4): which service a step takes, what a service leaves where the
stack is plain RAM and the vector can be read, and the return from it. -/

namespace Sys2Proof.Machine

/-! ### NMI and IRQ service (R427 to R429) -/

/-- A pending NMI is serviced, whatever else is pending (R121). -/
theorem step_eq_serviceNMI {s : State} (unfaulted : s.faulted = none) (running : s.halted = false)
    (pending : s.nmiPending = true) : step s = serviceNMI s := by
  simp [step, unfaulted, running, pending]

/-- With no NMI pending, an unmasked IRQ is serviced (R121). -/
theorem step_eq_serviceIRQ {s : State} (unfaulted : s.faulted = none) (running : s.halted = false)
    (quiet : s.nmiPending = false) (pending : s.irqPending = true) (unmasked : s.p.i = false) :
    step s = serviceIRQ s := by
  simp [step, unfaulted, running, quiet, pending, unmasked]

/-- The work of a service that begins in `s`, on a stack of plain RAM and through a readable vector. -/
def serviceWork (vector : Word) (s : State) : Work :=
  { st := { ((s.poke (stackAddr s.sp) (hi8 s.pc)).poke (stackAddr (s.sp - 1)) (lo8 s.pc)).poke
        (stackAddr (s.sp - 2)) (packP s.p false) with
      sp := s.sp - 3, stackWrapCount := s.stackWrapCount + if s.sp.toNat < 3 then 1 else 0
      p := { s.p with i := true }, pc := vectorTarget s vector }
    log := [⟨.stackWrite, stackAddr s.sp, hi8 s.pc⟩, ⟨.stackWrite, stackAddr (s.sp - 1), lo8 s.pc⟩,
      ⟨.stackWrite, stackAddr (s.sp - 2), packP s.p false⟩, ⟨.vector, vector, s.peek vector⟩,
      ⟨.vector, vector + 1, s.peek (vector + 1)⟩]
    wrapped := decide (s.sp.toNat < 3) }

/-- A service does that work and costs seven cycles (R427). -/
theorem service_ram {kind : StepKind} {mnemonic : String} {vector : Word} {before s : State} (ram : StackIsRam s.cfg)
    (readable : VectorReadable s.cfg vector) (outside : 512 ≤ vector.toNat ∧ 512 ≤ (vector + 1).toNat) :
    service kind mnemonic vector before s =
      .next (completeStep kind before ⟨none, [], mnemonic, none⟩ 7 (serviceWork vector s)) := by
  obtain ⟨⟨st, log, wrapped⟩, entered, rfl, rfl, rfl⟩ :=
    interruptEntry_ram vector false (Work.start s []) ram readable outside
  rw [service, entered]
  rfl

/-- Settles O8: the work of the service, with the NMI latch cleared before it. -/
theorem nmiServiceTakesTheEntry : Obligations.NmiServiceTakesTheEntry := by
  intro s unfaulted running pending ram readable
  have ran : step s = .next (completeStep .nmi s ⟨none, [], "NMI", none⟩ 7
      (serviceWork nmiVector { s with nmiPending := false })) := by
    rw [step_eq_serviceNMI unfaulted running pending]
    exact service_ram ram readable (by decide)
  exact ⟨_, _, ran, rfl, rfl, peek_afterEntry s s.pc (packP s.p false), rfl, ⟨rfl, rfl, rfl⟩, rfl, rfl, rfl, rfl, rfl,
    rfl, rfl, rfl, rfl, rfl, rfl, rfl, rfl, rfl, rfl, rfl, rfl, rfl, rfl⟩

/-- Settles O9: the work of the service, with the IRQ latch cleared before it. -/
theorem irqServiceTakesTheEntry : Obligations.IrqServiceTakesTheEntry := by
  intro s unfaulted running quiet pending unmasked ram readable
  have ran : step s = .next (completeStep .irq s ⟨none, [], "IRQ", none⟩ 7
      (serviceWork irqVector { s with irqPending := false })) := by
    rw [step_eq_serviceIRQ unfaulted running quiet pending unmasked]
    exact service_ram ram readable (by decide)
  exact ⟨_, _, ran, rfl, rfl, peek_afterEntry s s.pc (packP s.p false), rfl, ⟨rfl, rfl, rfl⟩, rfl, rfl, rfl, quiet, rfl,
    rfl, rfl, rfl, rfl, rfl, rfl, rfl, rfl, rfl, rfl, rfl, rfl, rfl, rfl⟩

/-! ### A masked IRQ (R426) -/

/-- No execution of an instruction writes the IRQ latch. -/
theorem exec_keeps_irqPending {i : Instr} {s t : State} (h : exec i s = .next t) : t.irqPending = s.irqPending := by
  rcases exec_next h with ⟨opcode, -, -, rfl⟩ | ⟨n, w, ⟨rfl, works, -⟩, -⟩
  · rfl
  · exact works.held.system.irqPending

/-- Settles O10: with the IRQ masked, the step executes an instruction. -/
theorem maskedIrqIsHeld : Obligations.MaskedIrqIsHeld := by
  intro s t unfaulted running quiet pending masked h
  rw [step_eq_executeInstruction unfaulted running quiet (.inr masked)] at h
  refine ⟨h, ?_⟩
  unfold executeInstruction at h
  cases fetched : fetchInstr s with
  | error f => rw [fetched] at h; cases h
  | ok x =>
    rw [fetched] at h
    have kept : x.2.irqPending = s.irqPending := by rw [(fetchInstr_ok fetched).2]
    rw [exec_keeps_irqPending h, kept, pending]

/-! ### Entry and return (R432, R435) -/

/-- Where PC stands on RTI's opcode in plain memory and no request is serviceable, a step is RTI. -/
theorem step_of_rti {s : State} (unfaulted : s.faulted = none) (running : s.halted = false)
    (quiet : s.nmiPending = false) (masked : s.irqPending = false ∨ s.p.i = true)
    (plain : readAnswerOf s.cfg s.pc = .cell) (opcode : s.peek s.pc = 0x40) : step s = exec .rti s := by
  have fetched : fetchInstr s = .ok (.rti, s) :=
    fetchInstr_of_storedAt (opcode := 0x40) (operands := []) (by decide) ⟨plain, opcode, trivial⟩
  rw [step_eq_executeInstruction unfaulted running quiet masked, executeInstruction, fetched]

/-- The stack addresses of an entry's three pushes are distinct, so each byte reads as it was pushed (R431). -/
theorem afterEntry_pushed (s : State) (pc : Word) (status : Byte) :
    afterEntry s pc status (stackAddr (s.sp - 2)) = status ∧
    afterEntry s pc status (stackAddr (s.sp - 1)) = lo8 pc ∧ afterEntry s pc status (stackAddr s.sp) = hi8 pc := by
  have lowStatus : stackAddr (s.sp - 1) ≠ stackAddr (s.sp - 2) := fun e => by have := stackAddr_inj e; bv_omega
  have highStatus : stackAddr s.sp ≠ stackAddr (s.sp - 2) := fun e => by have := stackAddr_inj e; bv_omega
  have highLow : stackAddr s.sp ≠ stackAddr (s.sp - 1) := fun e => by have := stackAddr_inj e; bv_omega
  refine ⟨if_pos rfl, ?_, ?_⟩
  · rw [afterEntry, if_neg lowStatus, if_pos rfl]
  · rw [afterEntry, if_neg highStatus, if_neg highLow, if_pos rfl]

/-- Settles O50: RTI pulls the three bytes the service pushed, and the stored B was never written. -/
theorem entryThenRtiResumesTheProgram : Obligations.EntryThenRtiResumesTheProgram := by
  intro s t unfaulted running pending ram readable stepped plain opcode
  obtain ⟨t', r, entered, -, sp, bytes, flags, ⟨a, x, y⟩, cycles, instructions, quiet, -, halted, -, cfg, -⟩ :=
    nmiServiceTakesTheEntry s unfaulted running pending ram readable
  obtain rfl : t' = t := by rw [entered] at stepped; injection stepped
  obtain ⟨acc, accounted⟩ := step_accounted entered
  have masked : t'.p.i = true := by rw [flags]
  have next := step_of_rti (accounted.faulted.trans unfaulted) (halted.trans running) quiet (.inr masked) plain opcode
  obtain ⟨u, ran, p, pc, spBack, -, retired, ⟨a', x', y'⟩, -⟩ := rtiRestoresStatusAndPc t' (cfg.symm ▸ ram)
  have first : t'.sp + 1 = s.sp - 2 := by rw [sp]; bv_omega
  have second : t'.sp + 2 = s.sp - 1 := by rw [sp]; bv_omega
  have third : t'.sp + 3 = s.sp := by rw [sp]; bv_omega
  obtain ⟨status, low, high⟩ := afterEntry_pushed s s.pc (packP s.p false)
  rw [second, third, bytes, bytes, low, high, word_hi8_lo8] at pc
  have unpacked : u.p = unpackP (packP s.p false) t'.p := by rw [p, first, bytes, status]; rfl
  have cost : (table (Instr.opcode .rti)).baseCycles = 6 := rfl
  refine ⟨u, next.trans ran, pc, ?_, spBack.trans third, ⟨a'.trans a, x'.trans x, y'.trans y⟩, ?_, ?_⟩
  · rw [unpacked, unpackP_packP, flags]
  · rw [retired.cycles, cycles, cost]
  · rw [retired.instructions, instructions]

end Sys2Proof.Machine
end

section
/-! The Debugger (spec/60_exceptions.md sections 8 to 12): what each of its checks does, one equation per outcome, and
what an observation changes. -/

namespace Sys2Proof.Machine

/-! ### Observation (R451, R452) -/

/-- A debugged step completes where the step does, with the step observed. -/
theorem debugStep_eq_next_iff {s u : State} : debugStep s = .next u ↔ ∃ t, step s = .next t ∧ observe t = u := by
  unfold debugStep
  cases step s <;> simp

/-- Observing changes the Debugger alone. -/
theorem observe_eq_with_dbg (s : State) : observe s = { s with dbg := (observe s).dbg } := by
  unfold observe
  split <;> rfl

/-- An inactive session observes nothing. -/
theorem observe_of_inactive {s : State} (inactive : s.dbg.active = false) : observe s = s := by
  unfold observe
  split
  · simp [observeWith, inactive]
  · rfl

/-- No step of the CPU writes the Debugger (R451). -/
theorem step_keeps_dbg {s t : State} (h : step s = .next t) : t.dbg = s.dbg := by
  rcases step_kinds h with ⟨-, rfl⟩ | ⟨-, opcode, -, calls, rfl⟩ | ⟨-, worked⟩
  · rfl
  · rfl
  · exact worked.dbg

/-- Settles O55: a debugged step is the observed step, and an observation changes the Debugger alone. -/
theorem observationLeavesTheCpuAlone : Obligations.ObservationLeavesTheCpuAlone := by
  intro s
  refine ⟨fun u h => ?_, fun t h => ⟨observe t, debugStep_eq_next_iff.mpr ⟨t, h, rfl⟩⟩⟩
  obtain ⟨t, stepped, rfl⟩ := debugStep_eq_next_iff.mp h
  exact ⟨t, stepped, observe_eq_with_dbg t, fun inactive => observe_of_inactive (step_keeps_dbg stepped ▸ inactive)⟩

/-! ### Finite maps keyed by an address, read back -/

/-- The record stored under a key is the one found there, wherever else the list holds that key. -/
theorem findKey_putKey_same {α : Type} {key : α → Word} {x : α} {a : Word} (l : List α) (keyed : key x = a) :
    findKey key a (putKey key x l) = some x := by
  subst keyed
  unfold findKey
  induction l with
  | nil => simp [putKey]
  | cons y rest ih =>
    rw [putKey]
    split
    case isTrue below =>
      have other : key y ≠ key x := fun e => by rw [e] at below; omega
      simpa [other] using ih
    case isFalse => split <;> simp

/-- No record is found under a key that was removed. -/
theorem findKey_dropKey_same {α : Type} (key : α → Word) (a : Word) (l : List α) :
    findKey key a (dropKey key a l) = none := by
  simp [findKey, dropKey, List.find?_eq_none]

/-! ### Breakpoints (R454, R455) -/

/-- Where control arrives at no breakpoint, the check changes nothing. -/
theorem checkBreakpoints_of_absent {s : State} {r : StepRecord} {d : Debugger}
    (absent : findKey Breakpoint.address s.pc d.breakpoints = none) : checkBreakpoints s r d = d := by
  unfold checkBreakpoints
  rw [absent]
  split <;> rfl

/-- A temporary breakpoint whose condition holds is hit and removed. -/
theorem checkBreakpoints_of_temporary {s : State} {r : StepRecord} {d : Debugger} {b : Breakpoint}
    (moved : r.kind ≠ .halted) (present : findKey Breakpoint.address s.pc d.breakpoints = some b)
    (enabled : b.enabled = true) (holds : evalCondition b.condition ⟨s.regs, s.p, b.hitCount, none⟩ = some true)
    (temporary : b.temporary = true) :
    checkBreakpoints s r d = { d with
      breakpoints := dropKey Breakpoint.address s.pc d.breakpoints
      events := d.events ++ [.breakpointHit s.pc b.name (b.hitCount + 1) s.cycles d.stepIndex] } := by
  simp [checkBreakpoints, moved, present, enabled, holds, temporary]

/-- A breakpoint whose condition fails to evaluate is reported and not hit. -/
theorem checkBreakpoints_of_error {s : State} {r : StepRecord} {d : Debugger} {b : Breakpoint}
    (moved : r.kind ≠ .halted) (present : findKey Breakpoint.address s.pc d.breakpoints = some b)
    (enabled : b.enabled = true) (error : evalCondition b.condition ⟨s.regs, s.p, b.hitCount, none⟩ = none) :
    checkBreakpoints s r d = reportOnce .breakpoint s.pc d := by
  simp [checkBreakpoints, moved, present, enabled, error]

/-- The temporary breakpoint set at an address is the one found there (R454). -/
theorem findKey_setTemporaryBreakpoint (address : Word) (name : Option String) (d : Debugger) :
    findKey Breakpoint.address address (setTemporaryBreakpoint address name d).breakpoints = some
      { address := address, enabled := true, condition := none
        name := name.getD ("Temporary breakpoint at $" ++ hex4 address), hitCount := 0, lastHit := none
        temporary := true } :=
  findKey_putKey_same d.breakpoints rfl

/-- Settles O56: the breakpoint just set is the one found, its check removes it, and nothing is found again. -/
theorem temporaryBreakpointIsHitOnce : Obligations.TemporaryBreakpointIsHitOnce := by
  intro s r d name moved e
  have hit : e = _ := checkBreakpoints_of_temporary moved (findKey_setTemporaryBreakpoint s.pc name d) rfl rfl rfl
  have absent : findKey Breakpoint.address s.pc e.breakpoints = none := by
    rw [hit]
    exact findKey_dropKey_same _ _ _
  exact ⟨absent, by rw [hit]; rfl, checkBreakpoints_of_absent absent⟩

/-! ### Watchpoints (R465, R466) -/

/-- A fetch is no access of a watchpoint, and an access elsewhere is none of this one (R465). -/
theorem watchMatch_eq_none {w : Watchpoint} {e : BusEntry} (unwatched : e.addr = w.address → e.kind = .fetch) :
    watchMatch w e = none := by
  by_cases here : e.addr = w.address
  · rw [watchMatch, unwatched here]
    rfl
  · unfold watchMatch
    split <;> simp [here]

/-- A watchpoint for writes takes no read. -/
theorem watchMatch_of_read {w : Watchpoint} {e : BusEntry} (writes : w.accessType = .write)
    (read : accessDirection e.kind = some .read) : watchMatch w e = none := by
  simp [watchMatch, read, writes, AccessType.takes]

/-- A watchpoint for writes takes a write of its address where that changes the value last seen. -/
theorem watchMatch_of_write {w : Watchpoint} {e : BusEntry} (writes : w.accessType = .write)
    (here : e.addr = w.address) (write : accessDirection e.kind = some .write) :
    watchMatch w e = if w.lastValue = some e.value then none else some .write := by
  simp [watchMatch, write, writes, here, AccessType.takes]

/-- No match is found where no entry matches. -/
theorem firstMatch_eq_none_iff {w : Watchpoint} {log : List BusEntry} :
    firstMatch w log = none ↔ ∀ e ∈ log, watchMatch w e = none := by
  induction log with
  | nil => simp [firstMatch]
  | cons e rest ih =>
    rw [firstMatch, List.forall_mem_cons, ← ih]
    cases watchMatch w e <;> simp

/-- Where no other entry matches, the first match is that of the one entry. -/
theorem firstMatch_of_only {w : Watchpoint} {before rest : List BusEntry} {e : BusEntry}
    (others : ∀ x ∈ before ++ rest, watchMatch w x = none) :
    firstMatch w (before ++ e :: rest) = (watchMatch w e).map fun dir => (dir, e.value) := by
  induction before with
  | nil =>
    have unmatched : firstMatch w rest = none := firstMatch_eq_none_iff.mpr others
    rw [List.nil_append, firstMatch, unmatched]
    cases watchMatch w e <;> rfl
  | cons x before ih =>
    obtain ⟨first, more⟩ := List.forall_mem_cons.mp others
    rw [List.cons_append, firstMatch, first]
    exact ih more

/-- Where no access matches, the check changes nothing. -/
theorem checkWatchpoint_of_unmatched {s : State} {r : StepRecord} {w : Watchpoint} (d : Debugger)
    (unmatched : firstMatch w r.busLog = none) : checkWatchpoint s r w d = (w, d) := by
  unfold checkWatchpoint
  rw [unmatched]
  split <;> rfl

/-- A matching access whose condition holds is a hit. -/
theorem checkWatchpoint_of_hit {s : State} {r : StepRecord} {w : Watchpoint} {dir : Direction} {value : Byte}
    (d : Debugger) (enabled : w.enabled = true) (matched : firstMatch w r.busLog = some (dir, value))
    (holds : evalCondition w.condition ⟨s.regs, s.p, w.hitCount, w.lastValue⟩ = some true) :
    checkWatchpoint s r w d =
      ({ w with hitCount := w.hitCount + 1, lastValue := some value },
        { d with events := d.events ++ [.watchpointHit w.address w.name dir value (w.hitCount + 1)] }) := by
  simp [checkWatchpoint, enabled, matched, holds]

/-- A matching access whose condition fails to evaluate is reported and is no hit. -/
theorem checkWatchpoint_of_error {s : State} {r : StepRecord} {w : Watchpoint} (d : Debugger)
    (enabled : w.enabled = true) (matched : ∃ e ∈ r.busLog, watchMatch w e ≠ none)
    (error : evalCondition w.condition ⟨s.regs, s.p, w.hitCount, w.lastValue⟩ = none) :
    checkWatchpoint s r w d = (w, reportOnce .watchpoint w.address d) := by
  cases first : firstMatch w r.busLog with
  | none =>
    obtain ⟨e, logged, accessed⟩ := matched
    exact absurd (firstMatch_eq_none_iff.mp first e logged) accessed
  | some found => simp [checkWatchpoint, enabled, first, error]

/-- Settles O57: the one entry that can match decides the first match. -/
theorem writeWatchpointSeesChangesOnly : Obligations.WriteWatchpointSeesChangesOnly := by
  intro s r w d before rest e enabled writes unconditional log here others
  have first : firstMatch w r.busLog = (watchMatch w e).map fun dir => (dir, e.value) := by
    rw [log]
    exact firstMatch_of_only fun x hx => watchMatch_eq_none (others x hx)
  have isWrite : e.kind = .write ∨ e.kind = .stackWrite → accessDirection e.kind = some .write := by
    rintro (kind | kind) <;> rw [kind] <;> rfl
  refine ⟨fun kind => ?_, fun kind same => ?_, fun kind changed => ?_⟩
  · have unmatched : watchMatch w e = none := by
      rcases kind with kind | kind | kind | kind
      · exact watchMatch_of_read writes (by rw [kind]; rfl)
      · exact watchMatch_of_read writes (by rw [kind]; rfl)
      · exact watchMatch_of_read writes (by rw [kind]; rfl)
      · exact watchMatch_eq_none fun _ => kind
    exact checkWatchpoint_of_unmatched d (by rw [first, unmatched]; rfl)
  · rw [watchMatch_of_write writes here (isWrite kind), if_pos same] at first
    exact checkWatchpoint_of_unmatched d first
  · rw [watchMatch_of_write writes here (isWrite kind), if_neg changed] at first
    exact checkWatchpoint_of_hit d enabled first (by rw [unconditional]; rfl)

/-! ### A condition that fails to evaluate (R460, R462) -/

theorem reportOnce_of_fresh {target : Target} {address : Word} {d : Debugger}
    (fresh : (target, address) ∉ d.reported) : reportOnce target address d = { d with
      reported := d.reported ++ [(target, address)], events := d.events ++ [.conditionError target address] } :=
  if_neg fresh

theorem reportOnce_of_reported {target : Target} {address : Word} {d : Debugger}
    (reported : (target, address) ∈ d.reported) : reportOnce target address d = d :=
  if_pos reported

/-- What was reported is marked. -/
theorem mem_reported_reportOnce (target : Target) (address : Word) (d : Debugger) :
    (target, address) ∈ (reportOnce target address d).reported := by
  by_cases h : (target, address) ∈ d.reported
  · rwa [reportOnce_of_reported h]
  · rw [reportOnce_of_fresh h]
    exact List.mem_append_right _ (List.mem_singleton_self _)

/-- A second report changes nothing. -/
theorem reportOnce_reportOnce (target : Target) (address : Word) (d : Debugger) :
    reportOnce target address (reportOnce target address d) = reportOnce target address d :=
  reportOnce_of_reported (mem_reported_reportOnce target address d)

theorem reportOnce_breakpoints (target : Target) (address : Word) (d : Debugger) :
    (reportOnce target address d).breakpoints = d.breakpoints := by
  unfold reportOnce
  split <;> rfl

/-- Settles O58: either check is one report, which leaves the records, so a second check reports again to no effect. -/
theorem failingConditionIsReportedOnce : Obligations.FailingConditionIsReportedOnce := by
  intro s r d q
  refine ⟨fun b moved present enabled condition error => ?_, fun w enabled matched condition error => ?_⟩
  · intro e
    have error : evalCondition b.condition ⟨s.regs, s.p, b.hitCount, none⟩ = none := by rwa [condition]
    have reported : e = reportOnce .breakpoint s.pc d := checkBreakpoints_of_error moved present enabled error
    have presentStill : findKey Breakpoint.address s.pc e.breakpoints = some b := by
      rwa [reported, reportOnce_breakpoints]
    refine ⟨?_, fun fresh => reported.trans (reportOnce_of_fresh fresh),
      fun marked => reported.trans (reportOnce_of_reported marked)⟩
    rw [checkBreakpoints_of_error moved presentStill enabled error, reported, reportOnce_reportOnce]
  · have error : evalCondition w.condition ⟨s.regs, s.p, w.hitCount, w.lastValue⟩ = none := by rwa [condition]
    have reports := fun d => checkWatchpoint_of_error (s := s) (r := r) d enabled matched error
    exact ⟨_, reports d, (reports _).trans (by rw [reportOnce_reportOnce]), reportOnce_of_fresh,
      reportOnce_of_reported⟩

/-! ### The trace (R470 to R472) -/

/-- The trace and its capacity are unchanged. -/
def TraceKept (d e : Debugger) : Prop := e.trace = d.trace ∧ e.traceCap = d.traceCap

theorem TraceKept.trans {d e f : Debugger} (h : TraceKept d e) (k : TraceKept e f) : TraceKept d f :=
  ⟨k.1.trans h.1, k.2.trans h.2⟩

theorem reportOnce_traceKept (target : Target) (address : Word) (d : Debugger) :
    TraceKept d (reportOnce target address d) := by
  unfold reportOnce
  split <;> exact ⟨rfl, rfl⟩

theorem checkBreakpoints_traceKept (s : State) (r : StepRecord) (d : Debugger) :
    TraceKept d (checkBreakpoints s r d) := by
  unfold checkBreakpoints
  split
  · exact ⟨rfl, rfl⟩
  · split
    · exact ⟨rfl, rfl⟩
    · split
      · exact ⟨rfl, rfl⟩
      · split
        · exact reportOnce_traceKept _ _ d
        · exact ⟨rfl, rfl⟩
        · exact ⟨rfl, rfl⟩

theorem checkWatchpoint_traceKept (s : State) (r : StepRecord) (w : Watchpoint) (d : Debugger) :
    TraceKept d (checkWatchpoint s r w d).2 := by
  unfold checkWatchpoint
  split
  · exact ⟨rfl, rfl⟩
  · split
    · exact ⟨rfl, rfl⟩
    · split
      · exact reportOnce_traceKept _ _ d
      · exact ⟨rfl, rfl⟩
      · exact ⟨rfl, rfl⟩

theorem checkWatchpointList_traceKept (s : State) (r : StepRecord) (l : List Watchpoint) (d : Debugger) :
    TraceKept d (checkWatchpointList s r l d).2 := by
  induction l generalizing d with
  | nil => exact ⟨rfl, rfl⟩
  | cons w rest ih => exact (checkWatchpoint_traceKept s r w d).trans (ih _)

/-- Of an observation, only `TraceAppend` touches the trace. -/
theorem observeWith_traceKept {s : State} {r : StepRecord} {d : Debugger} (active : d.active = true) :
    TraceKept (traceAppend s r { d with stepIndex := d.stepIndex + 1 }) (observeWith s r d) := by
  rw [observeWith, if_pos active]
  exact (checkWatchpointList_traceKept s r _ _).trans (checkBreakpoints_traceKept s r _)

/-- The step is one the trace takes (R471): an executed instruction, in an active session with tracing on and room. -/
structure Traced (r : StepRecord) (d : Debugger) (opcode : Byte) : Prop where
  active : d.active = true
  tracing : d.tracing = true
  kind : r.kind = .instruction
  opcode : r.opcode = some opcode
  room : d.trace.length < d.traceCap

/-- A step the trace takes adds its entry (R472). -/
theorem observeWith_of_traced {s : State} {r : StepRecord} {d : Debugger} {opcode : Byte} (h : Traced r d opcode) :
    (observeWith s r d).trace = d.trace ++ [traceEntry s.cycles r opcode] ∧
    (observeWith s r d).traceCap = d.traceCap := by
  have kept := observeWith_traceKept (s := s) (r := r) h.active
  simpa [TraceKept, traceAppend, h.tracing, h.kind, h.opcode, h.room] using kept

/-- Any other step adds nothing. -/
theorem observeWith_of_not_traced {s : State} {r : StepRecord} {d : Debugger} (h : ¬ ∃ opcode, Traced r d opcode) :
    TraceKept d (observeWith s r d) := by
  by_cases active : d.active = true
  · refine TraceKept.trans ?_ (observeWith_traceKept active)
    unfold traceAppend
    split
    case h_1 opcode decoded =>
      rw [if_neg]
      · exact ⟨rfl, rfl⟩
      · rintro ⟨tracing, kind, room⟩
        exact h ⟨opcode, active, tracing, kind, decoded, room⟩
    case h_2 => exact ⟨rfl, rfl⟩
  · rw [observeWith, if_neg active]
    exact ⟨rfl, rfl⟩

/-- Settles O59: the step is one the trace takes, or the trace is kept. -/
theorem traceStopsWhenFull : Obligations.TraceStopsWhenFull := by
  intro s r d bounded e
  by_cases traced : ∃ opcode, Traced r d opcode
  · obtain ⟨opcode, h⟩ := traced
    obtain ⟨grown, cap⟩ := observeWith_of_traced (s := s) h
    have length : e.trace.length = d.trace.length + 1 := by rw [grown, List.length_append]; rfl
    have room := h.room
    refine ⟨cap, by rw [length, cap]; omega, ⟨_, grown.symm⟩, fun inactive => ?_, fun off => ?_, fun full => ?_,
      fun other => absurd h.kind other, fun opcode' _ _ _ decoded _ => ?_⟩
    · exact absurd h.active (by simp [inactive])
    · exact absurd h.tracing (by simp [off])
    · omega
    · obtain rfl : opcode = opcode' := Option.some.inj (h.opcode.symm.trans decoded)
      exact grown
  · obtain ⟨same, cap⟩ := observeWith_of_not_traced (s := s) traced
    refine ⟨cap, by rw [same, cap]; exact bounded, same ▸ List.prefix_rfl, fun _ => same, fun _ => same, fun _ => same,
      fun _ => same, fun opcode active tracing kind decoded room => ?_⟩
    exact absurd ⟨opcode, active, tracing, kind, decoded, room⟩ traced

end Sys2Proof.Machine
end

section
/-! The performance profile (spec/60_exceptions.md R475, R476): `countAll` tallies the keys (`tallies_countAll`), and
`sortHot` ranks distinct addresses. -/

namespace Sys2Proof.Machine

/-! ### Counting -/

section
variable {α : Type}

/-- The list holds every key with a positive count once, with its count. -/
structure Tallies (m : List (α × Nat)) (count : α → Nat) : Prop where
  nodup : (m.map Prod.fst).Nodup
  mem : ∀ k n, (k, n) ∈ m ↔ 0 < n ∧ n = count k

theorem tallies_nil : Tallies ([] : List (α × Nat)) fun _ => 0 where
  nodup := .nil
  mem k n := by simp; omega

theorem Tallies.mem_keys_iff {m : List (α × Nat)} {count : α → Nat} (h : Tallies m count) (k : α) :
    k ∈ m.map Prod.fst ↔ 0 < count k := by
  constructor
  · intro hk
    obtain ⟨⟨x, n⟩, hm, rfl⟩ := List.mem_map.mp hk
    obtain ⟨positive, rfl⟩ := (h.mem x n).mp hm
    exact positive
  · exact fun positive => List.mem_map_of_mem ((h.mem k _).mpr ⟨positive, rfl⟩)

variable [DecidableEq α]

/-- Counting a key keeps the keys in order, and adds a new one at the end. -/
theorem map_fst_countKey (k : α) (m : List (α × Nat)) :
    (countKey k m).map Prod.fst = if k ∈ m.map Prod.fst then m.map Prod.fst else m.map Prod.fst ++ [k] := by
  induction m with
  | nil => rfl
  | cons p rest ih =>
    obtain ⟨y, j⟩ := p
    rw [countKey]
    split
    case isTrue same => simp [same]
    case isFalse same =>
      have other : k ≠ y := fun e => same e.symm
      have elsewhere : k ∈ ((y, j) :: rest).map Prod.fst ↔ k ∈ rest.map Prod.fst := by simp [other]
      rw [List.map_cons, ih]
      by_cases seen : k ∈ rest.map Prod.fst
      · rw [if_pos seen, if_pos (elsewhere.mpr seen)]
        rfl
      · rw [if_neg seen, if_neg (mt elsewhere.mp seen)]
        rfl

theorem nodup_countKey {k : α} {m : List (α × Nat)} (h : (m.map Prod.fst).Nodup) :
    ((countKey k m).map Prod.fst).Nodup := by
  rw [map_fst_countKey]
  split
  case isTrue => exact h
  case isFalse unseen =>
    have apart : ∀ x ∈ m.map Prod.fst, x ≠ k := fun x hx e => unseen (e ▸ hx)
    exact List.nodup_append.mpr
      ⟨h, List.pairwise_singleton _ k, fun x hx y hy => List.mem_singleton.mp hy ▸ apart x hx⟩

/-- The count of another key is left alone. -/
theorem mem_countKey_of_ne {k x : α} {n : Nat} {m : List (α × Nat)} (other : x ≠ k) :
    (x, n) ∈ countKey k m ↔ (x, n) ∈ m := by
  induction m with
  | nil => simp [countKey, other]
  | cons p rest ih =>
    obtain ⟨y, j⟩ := p
    rw [countKey]
    split
    case isTrue same => simp [same, other]
    case isFalse => rw [List.mem_cons, List.mem_cons, ih]

/-- The key's own count goes up by one, from none where it is new. -/
theorem mem_countKey_same {k : α} {n : Nat} {m : List (α × Nat)} (h : (m.map Prod.fst).Nodup) :
    (k, n) ∈ countKey k m ↔ (∃ j, (k, j) ∈ m ∧ n = j + 1) ∨ k ∉ m.map Prod.fst ∧ n = 1 := by
  induction m with
  | nil => simp [countKey]
  | cons p rest ih =>
    obtain ⟨y, j⟩ := p
    obtain ⟨first, more⟩ := List.nodup_cons.mp h
    rw [countKey]
    split
    case isTrue same =>
      subst same
      have gone : ∀ i, (y, i) ∉ rest := fun i hi => first (List.mem_map.mpr ⟨_, hi, rfl⟩)
      simp [gone]
    case isFalse same =>
      have other : k ≠ y := fun e => same e.symm
      rw [List.mem_cons, ih more]
      simp [other]

theorem tallies_countKey {m : List (α × Nat)} {count : α → Nat} (h : Tallies m count) (k : α) :
    Tallies (countKey k m) fun x => count x + if k = x then 1 else 0 where
  nodup := nodup_countKey h.nodup
  mem x n := by
    by_cases same : k = x
    · subst same
      rw [mem_countKey_same h.nodup, h.mem_keys_iff, if_pos rfl]
      constructor
      · rintro (⟨j, hj, rfl⟩ | ⟨unseen, rfl⟩)
        · have := (h.mem k j).mp hj
          omega
        · omega
      · rintro ⟨-, rfl⟩
        by_cases seen : 0 < count k
        · exact .inl ⟨count k, (h.mem k _).mpr ⟨seen, rfl⟩, rfl⟩
        · exact .inr ⟨seen, by omega⟩
    · rw [mem_countKey_of_ne (Ne.symm same), h.mem, if_neg same, Nat.add_zero]

theorem tallies_foldl_countKey {m : List (α × Nat)} {count : α → Nat} (h : Tallies m count) (keys : List α) :
    Tallies (keys.foldl (fun m k => countKey k m) m) fun x => count x + keys.count x := by
  induction keys generalizing m count with
  | nil => exact h
  | cons k rest ih =>
    have sum : ∀ x, count x + (if k = x then 1 else 0) + rest.count x = count x + (k :: rest).count x := fun x => by
      rw [List.count_cons]
      simp only [beq_iff_eq]
      omega
    simpa only [sum, List.foldl_cons] using ih (tallies_countKey h k)

/-- Every key that occurs is counted, as often as it occurs. -/
theorem tallies_countAll (keys : List α) : Tallies (countAll keys) fun x => keys.count x := by
  simpa [countAll] using tallies_foldl_countKey tallies_nil keys

end

/-! ### Ranking -/

theorem hotter_iff (l r : Word × Nat) : hotter l r = true ↔ l.2 > r.2 ∨ l.2 = r.2 ∧ l.1.toNat < r.1.toNat := by
  simp [hotter]

theorem hotter_trans {l r q : Word × Nat} (h : hotter l r = true) (k : hotter r q = true) : hotter l q = true := by
  rw [hotter_iff] at *
  omega

/-- Of two different addresses one is hotter. -/
theorem hotter_of_not_hotter {l r : Word × Nat} (h : ¬ hotter l r = true) (apart : l.1 ≠ r.1) : hotter r l = true := by
  have apart : l.1.toNat ≠ r.1.toNat := fun e => apart (BitVec.eq_of_toNat_eq e)
  rw [hotter_iff] at *
  omega

theorem perm_insertHot (x : Word × Nat) (l : List (Word × Nat)) : (insertHot x l).Perm (x :: l) := by
  induction l with
  | nil => exact .refl _
  | cons y rest ih =>
    rw [insertHot]
    split
    case isTrue => exact .refl _
    case isFalse => exact (ih.cons y).trans (.swap x y rest)

theorem perm_sortHot (l : List (Word × Nat)) : (sortHot l).Perm l := by
  induction l with
  | nil => exact .refl _
  | cons x rest ih => exact (perm_insertHot x _).trans (ih.cons x)

/-- A pair is inserted in its place. -/
theorem pairwise_insertHot {x : Word × Nat} {l : List (Word × Nat)} (ranked : l.Pairwise fun l r => hotter l r = true)
    (fresh : ∀ y ∈ l, x.1 ≠ y.1) : (insertHot x l).Pairwise fun l r => hotter l r = true := by
  induction l with
  | nil => exact List.pairwise_singleton _ x
  | cons y rest ih =>
    obtain ⟨first, more⟩ := List.pairwise_cons.mp ranked
    obtain ⟨apart, freshRest⟩ := List.forall_mem_cons.mp fresh
    rw [insertHot]
    split
    case isTrue before =>
      refine List.pairwise_cons.mpr ⟨fun z hz => ?_, ranked⟩
      rcases List.mem_cons.mp hz with rfl | hz
      · exact before
      · exact hotter_trans before (first z hz)
    case isFalse notBefore =>
      refine List.pairwise_cons.mpr ⟨fun z hz => ?_, ih more freshRest⟩
      rcases List.mem_cons.mp ((perm_insertHot x rest).mem_iff.mp hz) with rfl | hz
      · exact hotter_of_not_hotter notBefore apart
      · exact first z hz

/-- Distinct addresses are ranked by count descending and then by address ascending (R475). -/
theorem pairwise_sortHot {l : List (Word × Nat)} (distinct : (l.map Prod.fst).Nodup) :
    (sortHot l).Pairwise fun l r => hotter l r = true := by
  induction l with
  | nil => exact .nil
  | cons x rest ih =>
    obtain ⟨unseen, more⟩ := List.nodup_cons.mp distinct
    refine pairwise_insertHot (ih more) fun y hy e => ?_
    have seen : y ∈ rest := (perm_sortHot rest).mem_iff.mp hy
    exact unseen (e ▸ List.mem_map_of_mem seen)

/-! ### The profile -/

/-- The average times the number of instructions is the number of cycles: 0 where nothing was traced. -/
theorem averageOf_mul {cycles instructions : Nat} (empty : instructions = 0 → cycles = 0) :
    averageOf cycles instructions * (instructions : Rat) = (cycles : Rat) := by
  unfold averageOf
  split
  case isTrue idle => simp [idle, empty idle]
  case isFalse executed => exact Rat.div_mul_cancel (mt Rat.natCast_eq_zero_iff.mp executed)

/-- Settles O60: the counts are tallies, and the hotspots with the colder rest are the ranked tally of the addresses. -/
theorem profileTotalsAreTheTraces : Obligations.ProfileTotalsAreTheTraces := by
  intro trace
  obtain ⟨mnemonics, mnemonicCount⟩ := tallies_countAll (trace.map TraceEntry.mnemonic)
  obtain ⟨addresses, addressCount⟩ := tallies_countAll (trace.map TraceEntry.address)
  have average : (profileOf trace).averageCycles * trace.length = (profileOf trace).totalCycles :=
    averageOf_mul fun empty => by rw [List.length_eq_zero_iff.mp empty]; rfl
  refine ⟨rfl, rfl, average, mnemonics, mnemonicCount,
    ⟨(sortHot (countAll (trace.map TraceEntry.address))).drop 10, ?_⟩, fun empty => by rw [empty]; rfl⟩
  intro ranked
  have ranking : ranked = sortHot (countAll (trace.map TraceEntry.address)) := List.take_append_drop 10 _
  rw [ranking]
  refine ⟨List.length_take, ?_, fun a n => ?_⟩
  · exact (pairwise_sortHot addresses).imp fun h => (hotter_iff _ _).mp h
  · rw [(perm_sortHot _).mem_iff]
    exact addressCount a n

end Sys2Proof.Machine
end

section
/-! Reset (spec/70_reset_and_hazards.md section 1): it completes exactly where the two vector reads are answered
(`resetCpu_eq_ok_iff`), and each statement reads off what those reads give. -/

namespace Sys2Proof.Machine

/-- A failing read ends a pair of reads with its fault. -/
theorem readPair_of_low_failed {kind : AccessKind} {lowAt highAt : Word} {w : Work} {f : Fault}
    (low : memRead kind lowAt w = .error f) : readPair kind lowAt highAt w = .error f := by
  rw [readPair, low]
  rfl

theorem readPair_of_high_failed {kind : AccessKind} {lowAt highAt : Word} {w u : Work} {lo : Byte} {f : Fault}
    (low : memRead kind lowAt w = .ok (lo, u)) (high : memRead kind highAt u = .error f) :
    readPair kind lowAt highAt w = .error f := by
  simp only [readPair, low, bind, Except.bind, high]

/-- The vector reads that `reset()` begins with (R520). -/
theorem resetCpu_of_reads {s u v : State} {lo hi : Byte} (low : busRead 0xFFFC s = (some lo, u))
    (high : busRead 0xFFFD u = (some hi, v)) : resetCpu s = .ok (resetTo (word hi lo) v) := by
  have pair : readWord resetVector (Work.start s []) = .ok (word hi lo, _) :=
    readPair_of_reads (memRead_of_answered low) (memRead_of_answered high)
  rw [resetCpu, pair]
  rfl

/-- `reset()` ends with the fault of the first vector read (R523). -/
theorem resetCpu_of_low_failed {s u : State} (low : busRead 0xFFFC s = (none, u)) :
    resetCpu s = .error (busFaultOf .vector 0xFFFC u) := by
  have pair : readWord resetVector (Work.start s []) = .error _ :=
    readPair_of_low_failed (memRead_of_failed low)
  rw [resetCpu, pair]
  rfl

/-- `reset()` ends with the fault of the second vector read (R523). -/
theorem resetCpu_of_high_failed {s u v : State} {lo : Byte} (low : busRead 0xFFFC s = (some lo, u))
    (high : busRead 0xFFFD u = (none, v)) : resetCpu s = .error (busFaultOf .vector 0xFFFD v) := by
  have pair : readWord resetVector (Work.start s []) = .error _ :=
    readPair_of_high_failed (memRead_of_answered low) (memRead_of_failed high)
  rw [resetCpu, pair]
  rfl

/-- A reset that completes is one whose two reads were answered. -/
theorem resetCpu_eq_ok_iff {s t : State} : resetCpu s = .ok t ↔ ∃ lo hi u v,
    busRead 0xFFFC s = (some lo, u) ∧ busRead 0xFFFD u = (some hi, v) ∧ t = resetTo (word hi lo) v := by
  constructor
  · intro h
    cases low : busRead 0xFFFC s with
    | mk first u =>
      cases first with
      | none => rw [resetCpu_of_low_failed low] at h; cases h
      | some lo =>
        cases high : busRead 0xFFFD u with
        | mk second v =>
          cases second with
          | none => rw [resetCpu_of_high_failed low high] at h; cases h
          | some hi =>
            rw [resetCpu_of_reads low high] at h
            cases h
            exact ⟨lo, hi, u, v, rfl, high, rfl⟩
  · rintro ⟨lo, hi, u, v, low, high, rfl⟩
    exact resetCpu_of_reads low high

/-- Two reads in a row change nothing but what the collaborator has seen. -/
theorem busRead_twice_state {a b : Word} {s u v : State} {first second : Option Byte}
    (low : busRead a s = (first, u)) (high : busRead b u = (second, v)) : v = { s with calls := v.calls } := by
  have kept := busRead_state high
  rw [busRead_state low] at kept
  exact kept

/-- Settles O11: `resetTo` of the word read, on the state the reads left. -/
theorem resetWritesWhatTheRuleLists : Obligations.ResetWritesWhatTheRuleLists := by
  intro s u v lo hi low high
  have ran := resetCpu_of_reads low high
  obtain ⟨calls, rfl⟩ : ∃ calls, v = { s with calls := calls } := ⟨_, busRead_twice_state low high⟩
  exact ⟨_, ran, word_toNat hi lo, rfl, rfl, rfl, rfl, rfl, rfl, rfl, rfl, rfl, rfl, ⟨rfl, rfl, rfl⟩, rfl, rfl, rfl⟩

/-- Settles O13: the fault carries the state the failing read left. -/
theorem failingVectorReadEndsReset : Obligations.FailingVectorReadEndsReset := by
  intro s u
  refine ⟨fun low => ?_, fun lo v low high => ?_⟩
  · rw [resetCpu_of_low_failed low, busRead_state low]
    rfl
  · rw [resetCpu_of_high_failed low high, busRead_twice_state low high]
    rfl

/-- Only an `external` window may answer one read and fail another. -/
theorem busRead_answered_again {a : Word} {s s' u : State} {v : Byte} (answered : busRead a s = (some v, u))
    (closed : readAnswerOf s.cfg a ≠ .external) (cfg : s'.cfg = s.cfg) : ∃ v' u', busRead a s' = (some v', u') := by
  cases answer : readAnswerOf s.cfg a with
  | cell => exact ⟨_, _, busRead_cell (cfg ▸ answer)⟩
  | fixed v => exact ⟨_, _, busRead_fixed (cfg ▸ answer)⟩
  | device => exact ⟨_, _, busRead_device (cfg ▸ answer)⟩
  | external => exact absurd answer closed
  | fails => rw [busRead_fails answer] at answered; cases answered

/-- A reset through a vector that reads as stored. -/
theorem resetCpu_of_readable {s : State} (readable : VectorReadable s.cfg resetVector) :
    resetCpu s = .ok (resetTo (vectorTarget s resetVector) s) :=
  resetCpu_of_reads (busRead_cell readable.1) (busRead_cell readable.2)

/-- Settles O12: a reset state reset to the same word is the same state. -/
theorem resetTwiceIsResetOnce : Obligations.ResetTwiceIsResetOnce := by
  intro s t h
  refine ⟨fun u again samePc => ?_, fun lowClosed highClosed => ?_, fun readable => ?_⟩
  · obtain ⟨lo, hi, s₁, s₂, -, -, rfl⟩ := resetCpu_eq_ok_iff.mp h
    obtain ⟨lo', hi', t₁, t₂, low, high, rfl⟩ := resetCpu_eq_ok_iff.mp again
    obtain ⟨calls, rfl⟩ : ∃ calls, t₂ = { resetTo (word hi lo) s₂ with calls := calls } :=
      ⟨_, busRead_twice_state low high⟩
    have sameWord : word hi' lo' = word hi lo := samePc
    rw [sameWord]
    rfl
  · obtain ⟨lo, hi, u, v, low, high, rfl⟩ := resetCpu_eq_ok_iff.mp h
    have cfgLow : u.cfg = s.cfg := by rw [busRead_state low]
    have cfgHigh : v.cfg = s.cfg := by rw [busRead_twice_state low high]
    obtain ⟨lo', u', low'⟩ := busRead_answered_again (s' := resetTo (word hi lo) v) low lowClosed cfgHigh
    have cfgAgain : u'.cfg = u.cfg := by rw [busRead_state low', cfgLow]; exact cfgHigh
    obtain ⟨hi', v', high'⟩ := busRead_answered_again high (cfgLow.symm ▸ highClosed) cfgAgain
    exact ⟨_, resetCpu_of_reads low' high'⟩
  · rw [resetCpu_of_readable readable] at h
    cases h
    exact resetCpu_of_readable readable

end Sys2Proof.Machine
end
